-- ==== Sys2Proof/Word.lean ====
section
/-! DEFINITION. The words and the numbered things of the Cendra 6416: bytes of the register window, tick
counts, and the numbers that name slots, lines, groups and channels. -/

namespace Sys2Proof

/-- A byte of the register window. -/
abbrev Byte := BitVec 8

/-- A 32-bit tick count: T, due times, release times, stamps (00_scope.md, Time). -/
abbrev Tick := BitVec 32

/-- A register-window address, 0x00 to 0x7F (R153). -/
abbrev Addr := BitVec 7

/-- Event slots 0 to 63 (R3). -/
abbrev SlotId := Fin 64

/-- Output lines L0 to L15 (R55). -/
abbrev LineId := Fin 16

/-- Groups 0 to 7 (R79). -/
abbrev GroupId := Fin 8

/-- Capture channels K0 to K3 (R116). -/
abbrev ChannelId := Fin 4

end Sys2Proof
end

