-- ==== Sys2Proof/Syntax.lean ====
section
/-! DEFINITION. The commands of the block: one constructor for each row of spec/opcode_table.json. A row that
is a write of CMD takes its arguments from ARG0 to ARG7 and the staging record (R141), so it has no operand. -/

namespace Sys2Proof

/-- The steps of the Cendra 6416: host commands, walk visits, register-window happenings, and the happenings of
the pins, the clocks and the blocks themselves. -/
inductive Instr where
  /-- LOAD (R11): CMD is written with 0x01. -/
  | load
  /-- ARM (R16): CMD is written with 0x02. -/
  | arm
  /-- DISARM (R18): CMD is written with 0x03. -/
  | disarm
  /-- RELEASE (R20): CMD is written with 0x04. -/
  | release
  /-- RETIME (R21): CMD is written with 0x05. -/
  | retime
  /-- QUERY (R24): CMD is written with 0x06. -/
  | query
  /-- SUSPEND_GROUP (R81): CMD is written with 0x10. -/
  | suspendGroup
  /-- SUSPEND_GROUP_VISIT (R81): the walk visits its next slot. -/
  | suspendGroupVisit
  /-- RESUME_GROUP (R83): CMD is written with 0x11. -/
  | resumeGroup
  /-- RESUME_GROUP_VISIT (R83): the walk visits its next slot. -/
  | resumeGroupVisit
  /-- DISARM_GROUP (R85): CMD is written with 0x12. -/
  | disarmGroup
  /-- DISARM_GROUP_VISIT (R85): the walk visits its next slot. -/
  | disarmGroupVisit
  /-- START (R94): CMD is written with 0x20. -/
  | start
  /-- STOP (R95): CMD is written with 0x21. -/
  | stop
  /-- SETTIME (R97): CMD is written with 0x22. -/
  | settime
  /-- RESORT_COMPLETE (R33): the list takes its new order. -/
  | resortComplete
  /-- SWITCH_CLOCK (R109): CMD is written with 0x28. -/
  | switchClock
  /-- LOAD_PATTERN (R66): CMD is written with 0x30. -/
  | loadPattern
  /-- CLEAR_PATTERN (R67): CMD is written with 0x31. -/
  | clearPattern
  /-- CLEAR_TRIP (R71): CMD is written with 0x32. -/
  | clearTrip
  /-- LOCK_LINES (R59): CMD is written with 0x33. -/
  | lockLines
  /-- SAFE (R74): CMD is written with 0x34. -/
  | safe
  /-- SAFE_SLOT_VISIT (R74): SAFE visits its next slot. -/
  | safeSlotVisit
  /-- SAFE_LINE_VISIT (R75): SAFE visits its next line. -/
  | safeLineVisit
  /-- FLUSH_CAPTURE (R126): CMD is written with 0x38. -/
  | flushCapture
  /-- SOFT_RESET (R150): CMD is written with 0x3F. -/
  | softReset
  /-- UNKNOWN_COMMAND (R141): CMD is written with a code that names no command. -/
  | unknownCommand (code : Byte)
  /-- COLLIDE (R143): CMD is written while the Command Unit is BUSY. -/
  | collide (code : Byte)
  /-- COMMAND_COMPLETION (R144): the owner has finished with the command in hand. -/
  | commandCompletion
  /-- FIRE (R38): the Dispatcher takes the due head. -/
  | fire
  /-- RELEASE_OF_A_PULSE (R63): the release time of a line becomes due. -/
  | releaseOfAPulse (line : LineId)
  /-- GUARD_TICK (R68): a guard tick on every line. -/
  | guardTick
  /-- HOLDN_ASSERTION (R72): HOLDN falls. -/
  | holdnAssertion
  /-- HOLDN_RELEASE (R73): HOLDN rises. -/
  | holdnRelease
  /-- LINE_CONFIGURATION_COMMIT (R58): the byte at 0x43 is written. -/
  | lineConfigurationCommit (value : Byte)
  /-- TICK (R93): the Timebase counts. -/
  | tick
  /-- SYNC_EDGE (R100): SYNC rises. -/
  | syncEdge
  /-- REFCLK_EDGE (R110): REFCLK rises. -/
  | refclkEdge
  /-- GAP_TOO_LONG (R108): the 2 µs gap limit expires. -/
  | gapTooLong
  /-- SWITCH_TIMEOUT (R112): the switch timer reaches 1,000 µs. -/
  | switchTimeout
  /-- CAPTURE_INPUT_CHANGE (R117): a K input changes level. -/
  | captureInputChange (channel : ChannelId)
  /-- ACCEPTANCE (R118): the acceptance time of a channel's filter becomes due. -/
  | acceptance (channel : ChannelId)
  /-- CHANNEL_CONFIGURATION_COMMIT (R121): the byte at 0x53 is written. -/
  | channelConfigurationCommit (value : Byte)
  /-- CAPTURE_POP (R125): the byte at 0x79 is read. -/
  | capturePop
  /-- NOTIFICATION_POP (R135): the byte at 0x6D is read. -/
  | notificationPop
  /-- STATUS_READ (R158): the byte at 0x02 is read. -/
  | statusRead
  /-- LATCH_READ (R156): the lowest byte of a latched field is read; any other byte that has no row of its own
  is read by this row too (log 3). -/
  | latchRead
  /-- IRQ_ENABLE_WRITE (R137): the byte at 0x64 is written. -/
  | irqEnableWrite (value : Byte)
  /-- REGISTER_WRITE (R155): the byte at the pointer is written. -/
  | registerWrite (value : Byte)
  /-- FRAME_START (R153): CSN falls. -/
  | frameStart
  /-- ADDRESS_BYTE (R153): the first byte of a frame completes. -/
  | addressByte (value : Byte)
  /-- FRAME_END (R153): CSN rises. -/
  | frameEnd
  /-- FULL_RESET (R2): power-on, or RSTN falls. -/
  | fullReset
  /-- END_OF_FULL_RESET (R154): RSTN rises, or power-on completes. -/
  | endOfFullReset
  deriving DecidableEq, Repr

/-- The code that a row writes to CMD (R146), where the row is one of the twenty commands. -/
def Instr.code : Instr → Option Byte
  | .load => some 0x01
  | .arm => some 0x02
  | .disarm => some 0x03
  | .release => some 0x04
  | .retime => some 0x05
  | .query => some 0x06
  | .suspendGroup => some 0x10
  | .resumeGroup => some 0x11
  | .disarmGroup => some 0x12
  | .start => some 0x20
  | .stop => some 0x21
  | .settime => some 0x22
  | .switchClock => some 0x28
  | .loadPattern => some 0x30
  | .clearPattern => some 0x31
  | .clearTrip => some 0x32
  | .lockLines => some 0x33
  | .safe => some 0x34
  | .flushCapture => some 0x38
  | .softReset => some 0x3F
  | .unknownCommand _ | .collide _ | .commandCompletion => none
  | .suspendGroupVisit | .resumeGroupVisit | .disarmGroupVisit => none
  | .resortComplete | .safeSlotVisit | .safeLineVisit => none
  | .fire | .releaseOfAPulse _ | .guardTick | .holdnAssertion | .holdnRelease => none
  | .lineConfigurationCommit _ | .tick | .syncEdge | .refclkEdge => none
  | .gapTooLong | .switchTimeout | .captureInputChange _ | .acceptance _ => none
  | .channelConfigurationCommit _ | .capturePop | .notificationPop => none
  | .statusRead | .latchRead | .irqEnableWrite _ | .registerWrite _ => none
  | .frameStart | .addressByte _ | .frameEnd | .fullReset | .endOfFullReset => none

end Sys2Proof
end

