-- ==== Sys2Proof/Decode.lean ====
section
/-! DEFINITION. The rows of spec/opcode_table.json give no bits: no row has "fixed" and every row's "fields" is
empty (98_reader.md counts 0 rows with either). No word of the table's numbering therefore spells a command. -/

namespace Sys2Proof

/-- The command a table word spells: none, since no row of the table gives bits (log 22). -/
def decodeTableWord (_nbits _w : Nat) : Option Instr := none

end Sys2Proof
end

