-- ==== Sys2Proof/Config.lean ====
section
/-! DEFINITION. What the manual leaves open and the model leaves free. A constant here has no body, so no
proof can rest on a value of it. -/

namespace Sys2Proof

/-- FREE VALUE (log 9). R68 gives every line its guard tick at the same moment, and R55 gives happenings on
different lines no order, so the order in which the GUARD_TRIP posts of lines tripping at one guard tick reach
the queue is open. The `n`th draw ranks the lines by these keys. -/
opaque Config.tripOrderKey : Nat → LineId → Nat

end Sys2Proof
end

