-- ==== Sys2Proof/Machine/State.lean ====
section
/-! DEFINITION. The state of the Cendra 6416, block by block as 00_scope.md's block diagram names them, as plain
data, and the state after reset. -/

namespace Sys2Proof.Machine

/-! ### Slot Table (R3, R6, R7) -/

/-- What an applied occurrence does (R3). -/
inductive Action where
  | set
  | clear
  | toggle
  | pulse
  | shift
  | notify
  deriving DecidableEq, Repr

/-- FIRE or DROP (R3, R5). -/
inductive LatePolicy where
  | fire
  | drop
  deriving DecidableEq, Repr

/-- Which fires of a slot post a FIRE notification (R5). -/
inductive NotifyMode where
  | none
  | each
  | last
  deriving DecidableEq, Repr

/-- The descriptor of a slot (R3). `none` stands for NONE in `line` and `chain`. -/
structure Descriptor where
  action      : Action
  line        : Option LineId
  time        : Tick
  period      : BitVec 24
  repeats     : BitVec 16
  width       : BitVec 16
  group       : GroupId
  late        : LatePolicy
  tolerance   : Byte
  notify      : NotifyMode
  chain       : Option SlotId
  chainOffset : BitVec 24
  autoRelease : Bool
  deriving DecidableEq, Repr

/-- The descriptor of an EMPTY slot: every field zero, the chain target absent (R8). -/
def Descriptor.zero : Descriptor where
  action      := .set
  line        := some 0
  time        := 0
  period      := 0
  repeats     := 0
  width       := 0
  group       := 0
  late        := .fire
  tolerance   := 0
  notify      := .none
  chain       := none
  chainOffset := 0
  autoRelease := false

/-- The four states of a slot (R7). -/
inductive SlotState where
  | empty
  | loaded
  | pending
  | suspended
  deriving DecidableEq, Repr

/-- A slot record: the descriptor and the run fields (R3, R6). -/
structure Slot where
  desc        : Descriptor
  state       : SlotState
  due         : Tick
  remaining   : Tick
  repeatsLeft : BitVec 16
  occurrences : BitVec 16
  skipTotal   : BitVec 16
  deriving DecidableEq, Repr

/-- The cleared record of an EMPTY slot (R8). -/
def Slot.cleared : Slot where
  desc        := Descriptor.zero
  state       := .empty
  due         := 0
  remaining   := 0
  repeatsLeft := 0
  occurrences := 0
  skipTotal   := 0

/-! ### Pending List (R27, R28) and Dispatcher (R38) -/

/-- An entry of the Pending List names a slot (R27). `keptDue` is raised when T has carried the entry, due and
not yet taken, beyond the half range, so that it stays due by R37 (log 7). -/
structure Entry where
  slot    : SlotId
  keptDue : Bool
  deriving DecidableEq, Repr

/-- What became of the occurrence a FIRE reports. DROPPED, BLOCKED, PREEMPT and UNDERRUN never stand together
in one fire (R163). -/
inductive FireOutcome where
  | done
  | preempt
  | underrun
  | blocked
  | dropped
  deriving DecidableEq, Repr

/-- The copy the Dispatcher holds of the fire's working state (R38), with the lateness that stage two measured and the
fire tick as it was taken, which a load of T during the fire leaves as they are (R39, R53). -/
structure FireCopy where
  slot     : SlotId
  desc     : Descriptor
  nominal  : Tick
  fireTick : Tick
  stamp    : Tick
  lam      : Nat
  deriving DecidableEq, Repr

/-- What stage three leaves for the later stages: the outcome the flags report, and the slot whose pulse was
preempted (R40, R41). -/
structure Applied where
  outcome   : FireOutcome
  preempted : Option SlotId
  deriving DecidableEq, Repr

/-- The stage a fire takes next, with what the stages behind it found: apply or drop; accounting and placement; the
chain; the FIRE post; the CHAIN_MISS post (R40 to R51). Removal and lateness are the taking itself (R39). -/
inductive FireStage where
  | apply
  | place (applied : Applied)
  | chain (applied : Applied) (last : Bool) (skips : Nat)
  | notify (applied : Applied) (last : Bool) (skips : Nat) (missed : Option SlotId)
  | miss (target : SlotId)
  deriving DecidableEq, Repr

/-- The Dispatcher's two states (02, section 2.4); FIRING holds the copy and the stage to come. -/
inductive Dispatcher where
  | idle
  | firing (copy : FireCopy) (stage : FireStage)
  deriving DecidableEq, Repr

/-! ### Line Unit (R55, R57) -/

/-- ACTIVE_HIGH or ACTIVE_LOW (R55). -/
inductive Polarity where
  | activeHigh
  | activeLow
  deriving DecidableEq, Repr

/-- PUSH_PULL or OPEN_DRAIN (R55). -/
inductive Drive where
  | pushPull
  | openDrain
  deriving DecidableEq, Repr

/-- The safe level of a line (R55). -/
inductive SafeLevel where
  | inactive
  | active
  | float
  deriving DecidableEq, Repr

/-- The logical level of a line (R55). -/
inductive Level where
  | inactive
  | active
  deriving DecidableEq, Repr

/-- The mode a FORCED line returns to (R55, R73). -/
inductive HeldMode where
  | normal
  | tripped
  deriving DecidableEq, Repr

/-- The four modes of a line (R57). The held mode is present only while FORCED, so it stands inside it. -/
inductive LineMode where
  | off
  | normal
  | tripped
  | forced (held : HeldMode)
  deriving DecidableEq, Repr

/-- The five configuration fields of a line (R55). -/
structure LineConfig where
  enabled    : Bool
  polarity   : Polarity
  drive      : Drive
  safe       : SafeLevel
  guardLimit : BitVec 16
  deriving DecidableEq, Repr

/-- A pulse on a line: its owner and its release time (R55, R62). -/
structure Pulse where
  owner   : SlotId
  release : Tick
  deriving DecidableEq, Repr

/-- A pattern word with the number of levels it still holds: bits left of the current pattern, the length of
the next one (R55, R65). -/
structure Pattern where
  word  : BitVec 32
  count : Nat
  deriving DecidableEq, Repr

/-- A current pattern with 0 bits left (R77; the word is of no effect, log 15). -/
def Pattern.drained : Pattern := ⟨0, 0⟩

/-- A line record (R55). -/
structure Line where
  config     : LineConfig
  mode       : LineMode
  level      : Level
  driven     : Bool
  pulse      : Option Pulse
  current    : Pattern
  next       : Option Pattern
  guardCount : BitVec 16
  deriving DecidableEq, Repr

/-- A line record at full reset (R77). -/
def Line.atReset : Line where
  config     := ⟨false, .activeHigh, .pushPull, .inactive, 0⟩
  mode       := .off
  level      := .inactive
  driven     := false
  pulse      := none
  current    := Pattern.drained
  next       := none
  guardCount := 0

/-- The Line Unit: 16 line records, the line lock and the LOCKVIOL flag (R55, R59). `trips` holds the lines that the last
guard tick has tripped and whose GUARD_TRIP post is still to come, each with T at its trip (R69, R132, log 24). -/
structure LineUnit where
  lines    : Vector Line 16
  locked   : Bool
  lockViol : Bool
  trips    : List (LineId × Tick)
  deriving DecidableEq, Repr

/-! ### Group Control (R79) -/

/-- A group record (R79). -/
structure Group where
  suspended : Bool
  stamp     : Tick
  deriving DecidableEq, Repr

/-! ### Timebase (R91) -/

/-- The Timebase (R91). `phase` counts the whole periods of the selected clock counted toward the next tick; none
is held while STOPPED (R93, R97). No step advances it: TICK is the tick itself (log 12). -/
structure Timebase where
  t          : Tick
  e          : BitVec 16
  prescaler  : Fin 9
  running    : Bool
  marker     : Option (Fin 32)
  syncEnable : Bool
  syncVal    : Tick
  phase      : Option Nat
  deriving DecidableEq, Repr

/-! ### Clock Unit (R107) -/

/-- INT or EXT (R107). -/
inductive ClockSource where
  | int
  | ext
  deriving DecidableEq, Repr

/-- The switch state; the switch timer, in µs, is present only while PENDING_EXT (R107; log 12). -/
inductive SwitchState where
  | none
  | pendingExt (timer : Nat)
  deriving DecidableEq, Repr

/-- The REFCLK monitor (R107, R108). -/
inductive Monitor where
  | idle
  | confirming (count : Nat)
  | watching
  deriving DecidableEq, Repr

/-- The Clock Unit (R107). `gap` is the gap being measured (R108), in periods of the internal oscillator; it is
present while the monitor is not IDLE, and no step advances it (log 12). -/
structure Clock where
  source    : ClockSource
  switching : SwitchState
  degraded  : Bool
  monitor   : Monitor
  gap       : Option Nat
  deriving DecidableEq, Repr

/-! ### Capture Unit (R116, R123, R125) -/

/-- OFF, RISE, FALL or BOTH (R116). -/
inductive EdgeSelect where
  | off
  | rise
  | fall
  | both
  deriving DecidableEq, Repr

/-- The kind of an accepted edge (R122). -/
inductive Edge where
  | rise
  | fall
  deriving DecidableEq, Repr

/-- The filter state of a channel (R116, R117); a level is true for high. -/
inductive Filter where
  | stable (level : Bool)
  | qualifying (level : Bool) (stamp accept : Tick)
  deriving DecidableEq, Repr

/-- A trigger arm that an accepted edge has still to ask of the Slot Table: the slot, and the due time to arm it with
(R122, R124). -/
structure TriggerArm where
  slot : SlotId
  due  : Tick
  deriving DecidableEq, Repr

/-- A channel record (R116). `arm` is the second half of an accepted edge whose record has been offered already: other
happenings may fall before it (R122, log 24). -/
structure Channel where
  edge         : EdgeSelect
  filterLength : Byte
  trigger      : Option SlotId
  offset       : BitVec 24
  filter       : Filter
  arm          : Option TriggerArm
  deriving DecidableEq, Repr

/-- A capture record (R122). -/
structure CaptureRecord where
  channel : ChannelId
  edge    : Edge
  stamp   : Tick
  deriving DecidableEq, Repr

/-- The capture latch: a record or the empty record, and the count of records left (R125). -/
structure CaptureLatch where
  record : Option CaptureRecord
  left   : Nat
  deriving DecidableEq, Repr

/-- The Capture Unit (R116, R123, R125). -/
structure CaptureUnit where
  channels  : Vector Channel 4
  fifo      : List CaptureRecord
  watermark : Nat
  latch     : CaptureLatch
  deriving DecidableEq, Repr

/-! ### Notification Queue (R129, R130) -/

/-- RESULT codes (R145). -/
inductive ResultCode where
  | none
  | ok
  | unknown
  | range
  | state
  | past
  | full
  deriving DecidableEq, Repr

/-- The fields of a FIRE notification beside its stamp (R50, R129). -/
structure FireReport where
  slot    : SlotId
  line    : Option LineId
  aux     : BitVec 32
  late    : Bool
  last    : Bool
  outcome : FireOutcome
  skips   : BitVec 16
  deriving DecidableEq, Repr

/-- The fourteen kinds of notification with the fields each carries (R130). -/
inductive NotificationBody where
  | fire (report : FireReport)
  | chainMiss (slot target : SlotId)
  | triggerMiss (slot : SlotId) (channel : ChannelId)
  | guardTrip (line : LineId)
  | patternEmpty (line : LineId)
  | mark
  | synced (oldT : Tick)
  | captureLevel (count : Nat)
  | captureLost (channel : ChannelId)
  | clockSwitched (source : ClockSource)
  | clockFail
  | clockLoss
  | cmdDone (code : Byte) (result : ResultCode)
  | overflow (lost : BitVec 16)
  deriving DecidableEq, Repr

/-- An entry of the Notification Queue (R129). -/
structure Notification where
  stamp : Tick
  body  : NotificationBody
  deriving DecidableEq, Repr

/-- The Notification Queue (08). `postMask` holds the post-enable of the kind with kind code k in bit k (R160);
IRQN is computed from the entries and the enable (R137, log 13). -/
structure NotifyQueue where
  entries   : List Notification
  postMask  : BitVec 13
  irqEnable : Bool
  latch     : Option Notification
  deriving DecidableEq, Repr

/-! ### Command Unit (R140) -/

/-- The staging record: each field holds any value its bits in the window can encode (R140, R161). -/
structure Staging where
  action      : BitVec 3
  late        : BitVec 1
  notify      : BitVec 2
  line        : BitVec 5
  group       : BitVec 3
  time        : BitVec 32
  period      : BitVec 24
  repeats     : BitVec 16
  width       : BitVec 16
  tolerance   : BitVec 8
  chain       : BitVec 7
  autoRelease : BitVec 1
  chainOffset : BitVec 24
  deriving DecidableEq, Repr

/-- A staging record of all zeros (R151). -/
def Staging.zero : Staging := ⟨0, 0, 0, 0, 0, 0, 0, 0, 0, 0, 0, 0, 0⟩

/-- The captured copy: the argument bytes and the staging record as they stood at the last taking (R140). -/
structure Captured where
  args    : Vector Byte 8
  staging : Staging
  deriving DecidableEq, Repr

/-- The stages of SOFT_RESET after the first, which is its taking: the end of a fire, the soft resets of the Capture Unit,
the Slot Table with the Pending List, Group Control, the Line Unit, the Clock Unit, the Timebase and the Notification
Queue, and the completion (R150). -/
inductive ResetStage where
  | endOfFire
  | capture
  | slots
  | groups
  | lines
  | clock
  | time
  | queue
  | completion
  deriving DecidableEq, Repr

/-- The command in hand. `finished` is a command whose owner has finished with it and has its result code; a
walk holds what it visits next (R74, R75, R80); `resort` holds the T and E that the list's new order comes with
(R33, R99); `softReset` holds the stage it takes next (R150). -/
inductive Work where
  | finished (result : ResultCode)
  | suspendWalk (group : GroupId) (next : SlotId)
  | resumeWalk (group : GroupId) (next : SlotId)
  | disarmWalk (group : GroupId) (next : SlotId)
  | safeSlots (next : SlotId)
  | safeLines (next : LineId)
  | resort (time : Tick) (epoch : BitVec 16)
  | softReset (next : ResetStage)
  deriving DecidableEq, Repr

/-- The Command Unit (R140). It is IDLE when `inHand` is `none` and BUSY otherwise. -/
structure CommandUnit where
  inHand   : Option Work
  code     : Byte
  args     : Vector Byte 8
  staging  : Staging
  captured : Captured
  readback : Slot
  result   : ResultCode
  done     : Bool
  collide  : Bool
  deriving DecidableEq, Repr

/-! ### Register window and Serial Port (R153, R155, R156, R159) -/

/-- The holding bytes of the writable multi-byte fields (R155). -/
structure Holding where
  time        : BitVec 32
  period      : BitVec 24
  repeats     : BitVec 16
  width       : BitVec 16
  chainOffset : BitVec 24
  lineConfig  : BitVec 24
  capConfig   : BitVec 48
  syncVal     : BitVec 32
  postMask    : BitVec 16
  deriving DecidableEq, Repr

/-- The selectors, the holding bytes and the latches of the window (R155, R156, R159). -/
structure Window where
  lineSel        : BitVec 4
  capSel         : BitVec 2
  groupSel       : BitVec 3
  hold           : Holding
  timeLatch      : Vector Byte 6
  nextDueLatch   : Vector Byte 4
  pendCountLatch : Byte
  lineStatLatch  : Vector Byte 10
  capCfgLatch    : Vector Byte 6
  groupStatLatch : Vector Byte 5
  deriving DecidableEq, Repr

/-- The frame states of the Serial Port (R153). -/
inductive Frame where
  | idle
  | address
  | write
  | read
  deriving DecidableEq, Repr

/-- The Serial Port (R153). `sdo` is the byte read last, which SDO shifts out, or `none` for high impedance;
`nextDueRead` says that 0x68 has been read in the frame in progress (R156). -/
structure Port where
  frame       : Frame
  pointer     : Addr
  sdo         : Option Byte
  nextDueRead : Bool
  deriving DecidableEq, Repr

/-- The levels of the input pins that the part reads as levels; `k` is true for high. -/
structure Pins where
  holdnLow : Bool
  k        : Vector Bool 4
  csnLow   : Bool
  rstnLow  : Bool
  deriving DecidableEq, Repr

/-! ### The state -/

/-- The state of the part. `draws`, `pauses` and `pending` are the model's own fields: the counter that free values are
applied to (log 9); where the world's other happenings fall inside the coming happenings of several stages, each number
being the further stages that such a happening takes after its first before it lets others in, and none standing for all
of them (log 24); and the happenings waiting to be taken, first in first out (log 1). -/
structure State where
  slots      : Vector Slot 64
  plist      : List Entry
  dispatcher : Dispatcher
  lineUnit   : LineUnit
  groups     : Vector Group 8
  timebase   : Timebase
  clock      : Clock
  capture    : CaptureUnit
  queue      : NotifyQueue
  cmd        : CommandUnit
  window     : Window
  port       : Port
  pins       : Pins
  draws      : Nat
  pauses     : List Nat
  pending    : List Instr
  deriving DecidableEq, Repr

/-- The machine's faults. There is none: no happening of the manual stops the part. A refused command is a
completion with a result code (R144) and a lost post is counted (R133). -/
inductive Fault where
  deriving DecidableEq, Repr

/-- The machine's refusals. -/
inductive Refusal where
  /-- Raised by `exec` for a row that has no meaning yet; safe, since the machine stops. No arm raises it. -/
  | notModelled (mnemonic : String)
  deriving DecidableEq, Repr

/-! ### Full reset, block by block -/

/-- The Line Unit at full reset (R77, R158). -/
def LineUnit.atReset : LineUnit := ⟨Vector.replicate 16 Line.atReset, false, false, []⟩

/-- A group record at full reset (R90). -/
def Group.atReset : Group := ⟨false, 0⟩

/-- The Timebase at full reset (R105). -/
def Timebase.atReset : Timebase := ⟨0, 0, 0, false, none, false, 0, none⟩

/-- The Clock Unit at full reset (R115). -/
def Clock.atReset : Clock := ⟨.int, .none, false, .idle, none⟩

/-- A channel at full reset, its input at the given level (R127). -/
def Channel.atReset (level : Bool) : Channel := ⟨.off, 0, none, 0, .stable level, none⟩

/-- The Capture Unit at full reset, the inputs at the given levels (R127). -/
def CaptureUnit.atReset (k : Vector Bool 4) : CaptureUnit where
  channels  := Vector.ofFn fun i => Channel.atReset k[i]
  fifo      := []
  watermark := 1
  latch     := ⟨none, 0⟩

/-- The Notification Queue at full reset (R138): POSTMASK 0x0FDF. -/
def NotifyQueue.atReset : NotifyQueue := ⟨[], 0x0FDF, false, none⟩

/-- The Command Unit at full reset (R151); the captured copy is the model's choice (log 11). -/
def CommandUnit.atReset : CommandUnit where
  inHand   := none
  code     := 0
  args     := Vector.replicate 8 0
  staging  := Staging.zero
  captured := ⟨Vector.replicate 8 0, Staging.zero⟩
  readback := Slot.cleared
  result   := .none
  done     := false
  collide  := false

/-- The register window at full reset (R155, R156, R159). -/
def Window.atReset : Window where
  lineSel        := 0
  capSel         := 0
  groupSel       := 0
  hold           := ⟨0, 0, 0, 0, 0, 0, 0, 0, 0⟩
  timeLatch      := Vector.replicate 6 0
  nextDueLatch   := Vector.replicate 4 0
  pendCountLatch := 0
  lineStatLatch  := Vector.replicate 10 0
  capCfgLatch    := Vector.replicate 6 0
  groupStatLatch := Vector.replicate 5 0

/-- The Serial Port at full reset (R154). -/
def Port.atReset : Port := ⟨.idle, 0, none, false⟩

/-- The input pins after reset: HOLDN, CSN and RSTN high, K0 to K3 low (log 10). -/
def Pins.atReset : Pins := ⟨false, Vector.replicate 4 false, false, false⟩

/-- Every record of the part at its full-reset value, the input pins and the model's own fields as given (R2 and the reset rule of each chapter). -/
def State.fullResetImage (pins : Pins) (draws : Nat) (pauses : List Nat) (pending : List Instr) : State where
  slots      := Vector.replicate 64 Slot.cleared
  plist      := []
  dispatcher := .idle
  lineUnit   := LineUnit.atReset
  groups     := Vector.replicate 8 Group.atReset
  timebase   := Timebase.atReset
  clock      := Clock.atReset
  capture    := CaptureUnit.atReset pins.k
  queue      := NotifyQueue.atReset
  cmd        := CommandUnit.atReset
  window     := Window.atReset
  port       := Port.atReset
  pins       := pins
  draws      := draws
  pauses     := pauses
  pending    := pending

/-- The machine right after reset: full reset has ended, nothing has happened since, nothing waits (log 11). -/
def State.reset : State := State.fullResetImage Pins.atReset 0 [] []

end Sys2Proof.Machine
end

