-- ==== Sys2Proof/Machine/Ops.lean ====
section
/-! DEFINITION. The operations the meanings share: times and their distances, the records of each block, posting
to the Notification Queue, the Pending List, arming a slot, loading T, the Command Unit and the Serial Port. -/

namespace Sys2Proof.Machine

/-! ### Times (R92) -/

/-- The signed distance of `x` from `t` (R92). -/
def signedDistance (x t : Tick) : Int := (x - t).toInt

/-- How far `x` is past at `t`, the negation of the signed distance (R92); negative when `x` lies ahead. -/
def pastBy (x t : Tick) : Int := -signedDistance x t

/-- The remaining time of a slot placed SUSPENDED: the signed distance, or 0 if that is negative (R16, R47, R48,
R81, R124). -/
def remainingFrom (d : Int) : Tick := BitVec.ofNat 32 d.toNat

/-- Adds to a 16-bit counter that stops at 65,535 (R6, R44, R68, R133). -/
def satAdd16 (x : BitVec 16) (n : Nat) : BitVec 16 := BitVec.ofNat 16 (min (x.toNat + n) 65535)

/-- The table whose entry `i` is `f i`. -/
def tabulate {n : Nat} {α : Type} (f : Fin n → α) : Vector α n := ⟨((List.finRange n).map f).toArray, by simp⟩

/-! ### Records -/

/-- Replaces the Slot Table. -/
def State.withSlots (s : State) (x : Vector Slot 64) : State := { s with slots := x }
/-- Replaces the Pending List. -/
def State.withPlist (s : State) (x : List Entry) : State := { s with plist := x }
/-- Replaces the Dispatcher. -/
def State.withDispatcher (s : State) (x : Dispatcher) : State := { s with dispatcher := x }
/-- Replaces the Line Unit. -/
def State.withLineUnit (s : State) (x : LineUnit) : State := { s with lineUnit := x }
/-- Replaces Group Control. -/
def State.withGroups (s : State) (x : Vector Group 8) : State := { s with groups := x }
/-- Replaces the Timebase. -/
def State.withTimebase (s : State) (x : Timebase) : State := { s with timebase := x }
/-- Replaces the Clock Unit. -/
def State.withClock (s : State) (x : Clock) : State := { s with clock := x }
/-- Replaces the Capture Unit. -/
def State.withCapture (s : State) (x : CaptureUnit) : State := { s with capture := x }
/-- Replaces the Notification Queue. -/
def State.withQueue (s : State) (x : NotifyQueue) : State := { s with queue := x }
/-- Replaces the Command Unit. -/
def State.withCmd (s : State) (x : CommandUnit) : State := { s with cmd := x }
/-- Replaces the register window's own state. -/
def State.withWindow (s : State) (x : Window) : State := { s with window := x }
/-- Replaces the Serial Port. -/
def State.withPort (s : State) (x : Port) : State := { s with port := x }
/-- Replaces the input pins. -/
def State.withPins (s : State) (x : Pins) : State := { s with pins := x }
/-- Replaces the counter of free values. -/
def State.withDraws (s : State) (x : Nat) : State := { s with draws := x }
/-- Replaces the pauses. -/
def State.withPauses (s : State) (x : List Nat) : State := { s with pauses := x }
/-- Replaces the queue of waiting happenings. -/
def State.withPending (s : State) (x : List Instr) : State := { s with pending := x }

/-- The record of a slot. -/
def State.slot (s : State) (i : SlotId) : Slot := s.slots[i]
/-- The record of a line. -/
def State.line (s : State) (l : LineId) : Line := s.lineUnit.lines[l]
/-- The record of a group. -/
def State.group (s : State) (g : GroupId) : Group := s.groups[g]
/-- The record of a capture channel. -/
def State.channel (s : State) (k : ChannelId) : Channel := s.capture.channels[k]
/-- The level of a K input, true for high. -/
def State.inputLevel (s : State) (k : ChannelId) : Bool := s.pins.k[k]

/-- Writes the record of a slot. -/
def State.setSlot (s : State) (i : SlotId) (r : Slot) : State := s.withSlots (s.slots.set i r)
/-- Writes the record of a line. -/
def State.setLine (s : State) (l : LineId) (r : Line) : State :=
  s.withLineUnit { s.lineUnit with lines := s.lineUnit.lines.set l r }
/-- Writes the record of a group. -/
def State.setGroup (s : State) (g : GroupId) (r : Group) : State := s.withGroups (s.groups.set g r)
/-- Writes the record of a channel. -/
def State.setChannel (s : State) (k : ChannelId) (r : Channel) : State :=
  s.withCapture { s.capture with channels := s.capture.channels.set k r }

/-- Changes the record of every slot. -/
def State.mapSlots (s : State) (f : SlotId → Slot → Slot) : State :=
  s.withSlots (tabulate fun i => f i (s.slot i))
/-- Changes the record of every line. -/
def State.mapLines (s : State) (f : LineId → Line → Line) : State :=
  s.withLineUnit { s.lineUnit with lines := tabulate fun l => f l (s.line l) }
/-- Changes the record of every channel. -/
def State.mapChannels (s : State) (f : ChannelId → Channel → Channel) : State :=
  s.withCapture { s.capture with channels := tabulate fun k => f k (s.channel k) }

/-- T, the tick count. -/
def State.now (s : State) : Tick := s.timebase.t

/-- A time is due when its signed distance from T is zero or negative and the Timebase is RUNNING (R92). -/
def State.isDue (s : State) (x : Tick) : Bool := s.timebase.running && decide (signedDistance x s.now ≤ 0)

/-! ### Posting (R131, R133) -/

/-- The kind code of a notification's kind, and so its bit of POSTMASK (R160, R163); FIRE has bit 0. -/
def NotificationBody.kindCode : NotificationBody → Nat
  | .fire _ => 0
  | .chainMiss _ _ => 1
  | .triggerMiss _ _ => 2
  | .guardTrip _ => 3
  | .patternEmpty _ => 4
  | .mark => 5
  | .synced _ => 6
  | .captureLevel _ => 7
  | .captureLost _ => 8
  | .clockSwitched _ => 9
  | .clockFail => 10
  | .clockLoss => 11
  | .cmdDone _ _ => 12
  | .overflow _ => 13

/-- The append rule (R133): append, or create an OVERFLOW entry with stamp `t`, or count into the last one. -/
def appendPost (t : Tick) (n : Notification) (q : List Notification) : List Notification :=
  if q.length < 31 then q ++ [n]
  else
    match q.getLast? with
    | some ⟨stamp, .overflow lost⟩ => q.dropLast ++ [⟨stamp, .overflow (satAdd16 lost 1)⟩]
    | _ => q ++ [⟨t, .overflow 1⟩]

/-- A post: discarded when the post-enable of its kind is off (R131), otherwise taken by the append rule. -/
def State.post (s : State) (stamp : Tick) (body : NotificationBody) : State :=
  if s.queue.postMask.getLsbD body.kindCode then
    s.withQueue { s.queue with entries := appendPost s.now ⟨stamp, body⟩ s.queue.entries }
  else s

/-- Posts where there is something to post. -/
def State.postIf (s : State) (stamp : Tick) : Option NotificationBody → State
  | none => s
  | some body => s.post stamp body

/-! ### Happenings of several stages (R51, R122, R132, R150) -/

/-- The further stages that a happening of several takes after its first before it lets other happenings in: the front of
`pauses`, or as many as there are (log 24). -/
def State.further (s : State) : Nat := s.pauses.headD 16

/-- The front of `pauses` has been used. -/
def State.pauseTaken (s : State) : State := s.withPauses s.pauses.tail

/-! ### The Pending List (R27 to R30) -/

/-- The signed distance that an entry counts with at `t` (R28): that of its slot's due time, or −2^31 for an entry
kept due by R37. -/
def State.entryDist (s : State) (t : Tick) (e : Entry) : Int :=
  if e.keptDue then -2147483648 else signedDistance (s.slot e.slot).due t

/-- Places an entry of distance `d` after every entry whose due time is not later than its own and before the
first entry whose due time is later (R29). -/
def insertEntry (key : Entry → Int) (d : Int) (new : Entry) : List Entry → List Entry
  | [] => [new]
  | e :: rest => if key e ≤ d then e :: insertEntry key d new rest else new :: e :: rest

/-- Inserts an entry for a slot under the due time its record holds (R29). -/
def State.insertSlot (s : State) (i : SlotId) : State :=
  s.withPlist (insertEntry (s.entryDist s.now) (signedDistance (s.slot i).due s.now) ⟨i, false⟩ s.plist)

/-- Removes the entry of a slot, wherever it stands (R30). -/
def State.removeSlot (s : State) (i : SlotId) : State :=
  s.withPlist (s.plist.filter fun e => e.slot != i)

/-- A slot has an entry in the Pending List. -/
def State.listed (s : State) (i : SlotId) : Bool := s.plist.any fun e => e.slot == i

/-- The order of a re-sort under a new T: signed distances from it, entries of equal due time in the order they
had (R33); under the T that stands, the order as it was (R99). What R37 kept due is judged afresh by a T that differs
(log 7). -/
def State.resorted (s : State) (t : Tick) : List Entry :=
  if t = s.now then s.plist
  else
    s.plist.foldl
      (fun acc e =>
        insertEntry (fun x => signedDistance (s.slot x.slot).due t) (signedDistance (s.slot e.slot).due t)
          ⟨e.slot, false⟩ acc) []

/-- The head is due: the Timebase is RUNNING and the signed distance it counts with is zero or negative (R37). -/
def State.headDue (s : State) (e : Entry) : Bool :=
  s.timebase.running && decide (s.entryDist s.now e ≤ 0)

/-! ### Arming a slot (R16, R48, R124) -/

/-- A slot is counted when it is periodic with repeats 1 to 65,535 (R4). -/
def Descriptor.counted (d : Descriptor) : Bool := d.period != 0 && d.repeats != 0

/-- Arm-time initialisation of the run fields (R16). -/
def Slot.initialised (r : Slot) : Slot :=
  { r with repeatsLeft := if r.desc.counted then r.desc.repeats else 0, occurrences := 0, skipTotal := 0 }

/-- Places a slot under a due time by the suspended flag of its group: PENDING with an entry, or SUSPENDED with
the distance of the due time from `ref` as its remaining time (R16, R47, R48, R79, R124). -/
def State.placeSlot (s : State) (i : SlotId) (r : Slot) (due ref : Tick) : State :=
  if (s.group r.desc.group).suspended then
    s.setSlot i { r with state := .suspended, due := due, remaining := remainingFrom (signedDistance due ref) }
  else
    (s.setSlot i { r with state := .pending, due := due }).insertSlot i

/-- Arms a slot afresh: arm-time initialisation, then placement (R16). -/
def State.armSlot (s : State) (i : SlotId) (due ref : Tick) : State :=
  s.placeSlot i (s.slot i).initialised due ref

/-- Returns an armed slot to LOADED, keeping its descriptor and run fields; a PENDING slot's entry is removed
(R18, R74, R85). Other slots are left as they are. -/
def State.disarmSlot (s : State) (i : SlotId) : State :=
  match (s.slot i).state with
  | .pending => (s.removeSlot i).setSlot i { s.slot i with state := .loaded }
  | .suspended => s.setSlot i { s.slot i with state := .loaded }
  | .empty | .loaded => s

/-! ### Loading T (R32, R53, R64, R98, R101, R120) -/

/-- A due time shifts when its slot has an entry in the Pending List (R32). -/
def State.shiftDues (s : State) (d : Tick) : State :=
  s.mapSlots fun i r => if s.listed i then { r with due := r.due + d } else r

/-- The release time of every line that has a pulse owner shifts (R64). -/
def Line.shiftRelease (d : Tick) (l : Line) : Line :=
  { l with pulse := l.pulse.map fun p => { p with release := p.release + d } }

/-- The candidate stamp and the acceptance time of a qualifying filter shift (R120). -/
def Filter.shift (d : Tick) : Filter → Filter
  | .stable level => .stable level
  | .qualifying level stamp accept => .qualifying level (stamp + d) (accept + d)

/-- The times held in a fire's copy shift for the stages still to come; the fire tick as taken and the lateness stay
(R53). -/
def Dispatcher.shift (d : Tick) : Dispatcher → Dispatcher
  | .idle => .idle
  | .firing c stage => .firing { c with nominal := c.nominal + d, fireTick := c.fireTick + d } stage

/-- The shift of every stored future time but those of the capture filters (R98). -/
def State.shiftStored (s : State) (d : Tick) : State :=
  ((s.shiftDues d).mapLines fun _ => Line.shiftRelease d).withDispatcher (s.dispatcher.shift d)

/-- The due time of a trigger arm still to be asked for shifts, keeping the signed distance it would have had (log 24). -/
def TriggerArm.shift (d : Tick) (a : TriggerArm) : TriggerArm := { a with due := a.due + d }

/-- The shift of the capture channels' times (R120). -/
def State.shiftFilters (s : State) (d : Tick) : State :=
  s.mapChannels fun _ c => { c with filter := c.filter.shift d, arm := c.arm.map (TriggerArm.shift d) }

/-- Restarts the prescaler phase where one is held, as a handover between clock sources does (R111). -/
def State.handover (s : State) : State :=
  s.withTimebase { s.timebase with phase := if s.timebase.running then some 0 else none }

/-! ### The filters at STOP, START and the resets (R117, R119, R128) -/

/-- STOP abandons a qualification: the filter becomes STABLE at the present level of its input (R119). -/
def Filter.abandoned (level : Bool) : Filter → Filter
  | .stable l => .stable l
  | .qualifying _ _ _ => .stable level

/-- The Timebase stops: T and E hold, the prescaler phase is discarded, qualifications are abandoned (R95, R106,
R119). -/
def State.stopTimebase (s : State) : State :=
  (s.withTimebase { s.timebase with running := false, phase := none }).mapChannels fun k c =>
    { c with filter := c.filter.abandoned (s.inputLevel k) }

/-! ### The Command Unit (R140 to R144) -/

/-- The unit is BUSY while a command is in hand (R140). -/
def State.busy (s : State) : Bool := s.cmd.inHand.isSome

/-- Sets what the command in hand does next. -/
def State.work (s : State) (w : Work) : State := s.withCmd { s.cmd with inHand := some w }

/-- The owner has finished with the command in hand; its completion is still to come (R144). -/
def State.finish (s : State) (r : ResultCode) : State := s.work (.finished r)

/-- The taking of a command (R141). Until its owner says otherwise it has nothing left to do but complete. -/
def State.taken (s : State) (code : Byte) : State :=
  s.withCmd { s.cmd with
    inHand := some (.finished .ok), code := code, done := false,
    captured := ⟨s.cmd.args, s.cmd.staging⟩ }

/-- A write of CMD while BUSY (R143). -/
def State.collided (s : State) : State := s.withCmd { s.cmd with collide := true }

/-- A write of a code to CMD: a collision while BUSY, otherwise a taking that is handed to the code's owner
(R141, R143). -/
def State.writeCommand (s : State) (code : Byte) (owner : State → State) : State :=
  if s.busy then s.collided else owner (s.taken code)

/-- A captured argument byte. -/
def State.arg (s : State) (k : Fin 8) : Byte := s.cmd.captured.args[k]

/-! ### The Serial Port (R153) -/

/-- The address of CMD (R160). -/
def cmdAddr : Addr := 0x0E

/-- The pointer moves on past a byte, wrapping from 127 to 0 (R153). -/
def State.advance (s : State) : State := s.withPort { s.port with pointer := s.port.pointer + 1 }

/-- A data byte completes in WRITE at address `a` (R153); no byte completes there in any other state of the port
(log 2). -/
def State.writeAt (s : State) (a : Addr) (act : State → State) : State :=
  if s.port.frame = .write ∧ s.port.pointer = a then (act s).advance else s

/-- A write of CMD through the port. -/
def State.writeCmdByte (s : State) (code : Byte) (owner : State → State) : State :=
  s.writeAt cmdAddr fun s => s.writeCommand code owner

end Sys2Proof.Machine
end

