-- ==== Sys2Proof/Machine/Operands.lean ====
section
/-! DEFINITION. The forms in which bytes carry operands: the argument bytes of the commands (R146), the staging
record and its checks (R12, R161), the holding bytes (R155), and the byte images of the records that the window
shows (R161 to R164). -/

namespace Sys2Proof.Machine

/-! ### Bytes -/

/-- Byte `k` of a word, least significant first (R160). -/
def byteOf {w : Nat} (x : BitVec w) (k : Nat) : Byte := (x >>> (8 * k)).setWidth 8

/-- A word with its byte `k` replaced. -/
def putByte {w : Nat} (x : BitVec w) (k : Nat) (v : Byte) : BitVec w :=
  (x &&& ~~~(BitVec.setWidth w (0xFF#8) <<< (8 * k))) ||| (v.setWidth w <<< (8 * k))

/-- The number a byte stands for where it lies below `n`. -/
def numberBelow (n : Nat) (b : Byte) : Option (Fin n) :=
  if h : b.toNat < n then some ⟨b.toNat, h⟩ else none

/-! ### Argument bytes (R146) -/

/-- The slot an argument byte names; none above 63 (R10). -/
def slotArg (b : Byte) : Option SlotId := numberBelow 64 b

/-- The group an argument byte names; none above 7 (R80). -/
def groupArg (b : Byte) : Option GroupId := numberBelow 8 b

/-- The line an argument byte names; none above 15 (R66, R67, R71). -/
def lineArg (b : Byte) : Option LineId := numberBelow 16 b

/-- The prescaler an argument byte names; none above 8 (R94). -/
def prescalerArg (b : Byte) : Option (Fin 9) := numberBelow 9 b

/-- The two arm modes (R14). -/
inductive ArmMode where
  | abs
  | rel
  deriving DecidableEq, Repr

/-- ABS 0, REL 1 (R146). -/
def armModeArg (b : Byte) : Option ArmMode :=
  if b = 0 then some .abs else if b = 1 then some .rel else none

/-- The two modes of SETTIME (R97). -/
inductive TimeMode where
  | keepDistance
  | keepAbsolute
  deriving DecidableEq, Repr

/-- KEEP_DISTANCE 0, KEEP_ABSOLUTE 1 (R146). -/
def timeModeArg (b : Byte) : Option TimeMode :=
  if b = 0 then some .keepDistance else if b = 1 then some .keepAbsolute else none

/-- INT 0, EXT 1 (R146). -/
def sourceArg (b : Byte) : Option ClockSource :=
  if b = 0 then some .int else if b = 1 then some .ext else none

/-- A pattern length, 1 to 32 (R66). -/
def lengthArg (b : Byte) : Option Nat :=
  if 1 ≤ b.toNat ∧ b.toNat ≤ 32 then some b.toNat else none

/-- A 32-bit argument in four consecutive ARG bytes, least significant first (R146). -/
def word32 (b0 b1 b2 b3 : Byte) : BitVec 32 := b3 ++ b2 ++ b1 ++ b0

/-- RETIME's delta and LOAD_PATTERN's word: ARG1 to ARG4 (R146). -/
def State.argWord1 (s : State) : BitVec 32 := word32 (s.arg 1) (s.arg 2) (s.arg 3) (s.arg 4)

/-- SETTIME's time: ARG0 to ARG3 (R146). -/
def State.argTime (s : State) : Tick := word32 (s.arg 0) (s.arg 1) (s.arg 2) (s.arg 3)

/-- SETTIME's epoch: ARG4, ARG5 (R146). -/
def State.argEpoch (s : State) : BitVec 16 := s.arg 5 ++ s.arg 4

/-! ### The staging record and the checks of LOAD (R12, R161) -/

/-- SET 0 to NOTIFY 5; 6 and 7 name no action (R161). -/
def actionOf (x : BitVec 3) : Option Action :=
  if x = 0 then some .set else if x = 1 then some .clear else if x = 2 then some .toggle
  else if x = 3 then some .pulse else if x = 4 then some .shift else if x = 5 then some .notify else none

/-- FIRE 0, DROP 1 (R161). -/
def latePolicyOf (x : BitVec 1) : LatePolicy := if x = 0 then .fire else .drop

/-- NONE 0, EACH 1, LAST 2; 3 names none (R161). -/
def notifyModeOf (x : BitVec 2) : Option NotifyMode :=
  if x = 0 then some .none else if x = 1 then some .each else if x = 2 then some .last else none

/-- 0 to 15, or NONE 0x1F; 16 to 30 fail (R161). -/
def stagedLineOf (x : BitVec 5) : Option (Option LineId) :=
  if x = 0x1F then some none
  else if h : x.toNat < 16 then some (some ⟨x.toNat, h⟩) else none

/-- 0 to 63, or NONE 0x7F; 64 to 126 fail (R161). -/
def stagedChainOf (x : BitVec 7) : Option (Option SlotId) :=
  if x = 0x7F then some none
  else if h : x.toNat < 64 then some (some ⟨x.toNat, h⟩) else none

/-- NOTIFY goes with NONE, every other action with a line (R12). -/
def lineAgrees (a : Action) (line : Option LineId) : Bool := (a == .notify) == line.isNone

/-- For PULSE with a period greater than 0, the period is greater than the width (R12). -/
def pulseFits (a : Action) (period : BitVec 24) (width : BitVec 16) : Bool :=
  a != .pulse || period == 0 || decide (width.toNat < period.toNat)

/-- The checks of R12 on a captured staging record, and the descriptor a passing record stands for; with no chain
target the chain offset is not checked and is stored as zero (R11). -/
def descriptorOf (r : Staging) : Option Descriptor := do
  let action ← actionOf r.action
  let line ← stagedLineOf r.line
  let notify ← notifyModeOf r.notify
  let chain ← stagedChainOf r.chain
  if lineAgrees action line && r.width != 0 && pulseFits action r.period r.width
      && (chain.isNone || r.chainOffset != 0) then
    some {
      action := action
      line := line
      time := r.time
      period := r.period
      repeats := r.repeats
      width := r.width
      group := ⟨r.group.toNat, r.group.isLt⟩
      late := latePolicyOf r.late
      tolerance := r.tolerance
      notify := notify
      chain := chain
      chainOffset := if chain.isNone then 0 else r.chainOffset
      autoRelease := r.autoRelease == 1 }
  else none

/-! ### Writing the staging record (R140, R155, R161) -/

/-- The staging record and its holding bytes after byte `k` of its layout, 0 to 17, is written. A multi-byte field
takes its holding content when its highest byte is written; the four single bytes take their value at once. -/
def stagingWrite (k : Nat) (v : Byte) (r : Staging) (h : Holding) : Staging × Holding :=
  if k = 0 then
    ({ r with action := v.extractLsb' 0 3, late := v.extractLsb' 3 1, notify := v.extractLsb' 4 2 }, h)
  else if k = 1 then ({ r with line := v.extractLsb' 0 5, group := v.extractLsb' 5 3 }, h)
  else if k < 6 then
    let held := putByte h.time (k - 2) v
    (if k = 5 then { r with time := held } else r, { h with time := held })
  else if k < 9 then
    let held := putByte h.period (k - 6) v
    (if k = 8 then { r with period := held } else r, { h with period := held })
  else if k < 11 then
    let held := putByte h.repeats (k - 9) v
    (if k = 10 then { r with repeats := held } else r, { h with repeats := held })
  else if k < 13 then
    let held := putByte h.width (k - 11) v
    (if k = 12 then { r with width := held } else r, { h with width := held })
  else if k = 13 then ({ r with tolerance := v }, h)
  else if k = 14 then ({ r with chain := v.extractLsb' 0 7, autoRelease := v.extractLsb' 7 1 }, h)
  else
    let held := putByte h.chainOffset (k - 15) v
    (if k = 17 then { r with chainOffset := held } else r, { h with chainOffset := held })

/-! ### Reading the staging record (R161) -/

/-- Byte `k` of the staging layout, 0 to 17; the chain offset reads 0 when the chain target is NONE (R161). Bits 7:6 of
byte 0, which belong to the readback record alone, read 0, the model's choice (log 14). -/
def stagingByte (r : Staging) (k : Nat) : Byte :=
  if k = 0 then 0#2 ++ r.notify ++ r.late ++ r.action
  else if k = 1 then r.group ++ r.line
  else if k < 6 then byteOf r.time (k - 2)
  else if k < 9 then byteOf r.period (k - 6)
  else if k < 11 then byteOf r.repeats (k - 9)
  else if k < 13 then byteOf r.width (k - 11)
  else if k = 13 then r.tolerance
  else if k = 14 then r.autoRelease ++ r.chain
  else if r.chain = 0x7F then 0
  else byteOf r.chainOffset (k - 15)

/-! ### The readback record (R161) -/

/-- SET 0 to NOTIFY 5 (R161). -/
def actionCode : Action → BitVec 3
  | .set => 0
  | .clear => 1
  | .toggle => 2
  | .pulse => 3
  | .shift => 4
  | .notify => 5

/-- FIRE 0, DROP 1 (R161). -/
def latePolicyCode : LatePolicy → BitVec 1
  | .fire => 0
  | .drop => 1

/-- NONE 0, EACH 1, LAST 2 (R161). -/
def notifyModeCode : NotifyMode → BitVec 2
  | .none => 0
  | .each => 1
  | .last => 2

/-- EMPTY 0, LOADED 1, PENDING 2, SUSPENDED 3 (R161). -/
def slotStateCode : SlotState → BitVec 2
  | .empty => 0
  | .loaded => 1
  | .pending => 2
  | .suspended => 3

/-- A line, or NONE 0x1F (R161). -/
def lineCode5 : Option LineId → BitVec 5
  | some l => BitVec.ofNat 5 l.val
  | none => 0x1F

/-- A chain target, or NONE 0x7F (R161). -/
def chainCode : Option SlotId → BitVec 7
  | some i => BitVec.ofNat 7 i.val
  | none => 0x7F

/-- The staging record that a descriptor is written from: its fields in the encodings of R161. -/
def stagingOf (d : Descriptor) : Staging where
  action      := actionCode d.action
  late        := latePolicyCode d.late
  notify      := notifyModeCode d.notify
  line        := lineCode5 d.line
  group       := BitVec.ofNat 3 d.group.val
  time        := d.time
  period      := d.period
  repeats     := d.repeats
  width       := d.width
  tolerance   := d.tolerance
  chain       := chainCode d.chain
  autoRelease := BitVec.ofBool d.autoRelease
  chainOffset := d.chainOffset

/-- Byte `k` of the readback record, 0 to 31: the staging layout with the slot's state in bits 7:6 of byte 0, then
the run fields (R161). -/
def readbackByte (r : Slot) (k : Nat) : Byte :=
  if k = 0 then stagingByte (stagingOf r.desc) 0 ||| ((slotStateCode r.state).setWidth 8 <<< 6)
  else if k < 18 then stagingByte (stagingOf r.desc) k
  else if k < 22 then byteOf r.due (k - 18)
  else if k < 26 then byteOf r.remaining (k - 22)
  else if k < 28 then byteOf r.repeatsLeft (k - 26)
  else if k < 30 then byteOf r.occurrences (k - 28)
  else byteOf r.skipTotal (k - 30)

/-! ### Line and channel windows (R162) -/

/-- INACTIVE 0, ACTIVE 1, FLOAT 2; 3 is committed as INACTIVE (R162). -/
def safeLevelOf (x : BitVec 2) : SafeLevel :=
  if x = 1 then .active else if x = 2 then .float else .inactive

/-- The configuration that the three bytes of the line configuration window stand for (R162). -/
def lineConfigOf (x : BitVec 24) : LineConfig where
  enabled    := x.getLsbD 0
  polarity   := if x.getLsbD 1 then .activeLow else .activeHigh
  drive      := if x.getLsbD 2 then .openDrain else .pushPull
  safe       := safeLevelOf (x.extractLsb' 3 2)
  guardLimit := x.extractLsb' 8 16

/-- INACTIVE 0, ACTIVE 1, FLOAT 2 (R162). -/
def safeLevelCode : SafeLevel → BitVec 2
  | .inactive => 0
  | .active => 1
  | .float => 2

/-- Byte `k` of the line configuration window as it reads: the committed fields (R155, R162). Bits 7:5 of byte 0, which
R162 does not list, read 0, the model's choice (log 14). -/
def lineConfigByte (c : LineConfig) (k : Nat) : Byte :=
  if k = 0 then
    0#3 ++ safeLevelCode c.safe ++ BitVec.ofBool (c.drive == .openDrain)
      ++ BitVec.ofBool (c.polarity == .activeLow) ++ BitVec.ofBool c.enabled
  else byteOf c.guardLimit (k - 1)

/-- OFF 0, NORMAL 1, TRIPPED 2, FORCED 3 (R162). -/
def modeCode : LineMode → BitVec 2
  | .off => 0
  | .normal => 1
  | .tripped => 2
  | .forced _ => 3

/-- Held mode: none 0, NORMAL 1, TRIPPED 2 (R162). -/
def heldCode : LineMode → BitVec 2
  | .forced .normal => 1
  | .forced .tripped => 2
  | .off | .normal | .tripped => 0

/-- Byte 0 of the line status window (R162). Bit 7, which R162 does not list, reads 0, the model's choice (log 14). -/
def lineStatByte0 (l : Line) (locked : Bool) : Byte :=
  0#1 ++ BitVec.ofBool locked ++ BitVec.ofBool l.driven ++ BitVec.ofBool (l.level == .active)
    ++ heldCode l.mode ++ modeCode l.mode

/-- A slot number as a byte, NONE 0xFF (R162, R163). -/
def slotByte : Option SlotId → Byte
  | some i => BitVec.ofNat 8 i.val
  | none => 0xFF

/-- The release time shown: 0 when there is no owner (R76). -/
def releaseShown (l : Line) : Tick :=
  match l.pulse with
  | some p => p.release
  | none => 0

/-- The length of the next pattern shown: 0 when absent (R162). -/
def nextLength (l : Line) : Nat :=
  match l.next with
  | some p => p.count
  | none => 0

/-- The line status window of a line (R76, R162). -/
def lineStatImage (l : Line) (locked : Bool) : Vector Byte 10 :=
  #v[lineStatByte0 l locked, slotByte (l.pulse.map Pulse.owner),
     byteOf (releaseShown l) 0, byteOf (releaseShown l) 1, byteOf (releaseShown l) 2, byteOf (releaseShown l) 3,
     BitVec.ofNat 8 l.current.count, BitVec.ofNat 8 (nextLength l),
     byteOf l.guardCount 0, byteOf l.guardCount 1]

/-- OFF 0, RISE 1, FALL 2, BOTH 3 (R162). -/
def edgeSelectOf (x : BitVec 2) : EdgeSelect :=
  if x = 0 then .off else if x = 1 then .rise else if x = 2 then .fall else .both

/-- OFF 0, RISE 1, FALL 2, BOTH 3 (R162). -/
def edgeSelectCode : EdgeSelect → BitVec 2
  | .off => 0
  | .rise => 1
  | .fall => 2
  | .both => 3

/-- The level that a filter holds as stable (R116). -/
def Filter.stableLevel : Filter → Bool
  | .stable level => level
  | .qualifying level _ _ => level

/-- The filter is QUALIFYING (R116). -/
def Filter.isQualifying : Filter → Bool
  | .stable _ => false
  | .qualifying _ _ _ => true

/-- Byte 0 of the channel configuration window (R162). Bits 7 and 3:2, which R162 does not list, read 0, the model's choice
(log 14). -/
def capCfgByte0 (c : Channel) (level : Bool) : Byte :=
  0#1 ++ BitVec.ofBool level ++ BitVec.ofBool c.filter.stableLevel ++ BitVec.ofBool c.filter.isQualifying
    ++ 0#2 ++ edgeSelectCode c.edge

/-- The channel configuration window of a channel whose input is at `level` (R116, R162). -/
def capCfgImage (c : Channel) (level : Bool) : Vector Byte 6 :=
  #v[capCfgByte0 c level, c.filterLength, slotByte c.trigger,
     byteOf c.offset 0, byteOf c.offset 1, byteOf c.offset 2]

/-- The trigger slot a byte stands for; above 63 it is stored as NONE (R121, R162). -/
def triggerOf (b : Byte) : Option SlotId := slotArg b

/-! ### Group status and TIME (R162, R104) -/

/-- The flags of all eight groups, that of group g in bit g (R162). -/
def groupFlags (s : State) : Byte :=
  BitVec.ofBool (s.group 7).suspended ++ BitVec.ofBool (s.group 6).suspended
    ++ BitVec.ofBool (s.group 5).suspended ++ BitVec.ofBool (s.group 4).suspended
    ++ BitVec.ofBool (s.group 3).suspended ++ BitVec.ofBool (s.group 2).suspended
    ++ BitVec.ofBool (s.group 1).suspended ++ BitVec.ofBool (s.group 0).suspended

/-- The group status window with the stamp of a group (R89, R162). -/
def groupStatImage (s : State) (g : GroupId) : Vector Byte 5 :=
  #v[groupFlags s, byteOf (s.group g).stamp 0, byteOf (s.group g).stamp 1,
     byteOf (s.group g).stamp 2, byteOf (s.group g).stamp 3]

/-- TIME: the four bytes of T and the two of E (R104). -/
def timeImage (b : Timebase) : Vector Byte 6 :=
  #v[byteOf b.t 0, byteOf b.t 1, byteOf b.t 2, byteOf b.t 3, byteOf b.e 0, byteOf b.e 1]

/-- NEXTDUE: the due time of the head, 0 when the list is empty (R35). -/
def State.nextDue (s : State) : Tick :=
  match s.plist with
  | [] => 0
  | e :: _ => (s.slot e.slot).due

/-- The four bytes of NEXTDUE (R160). -/
def nextDueImage (s : State) : Vector Byte 4 :=
  #v[byteOf s.nextDue 0, byteOf s.nextDue 1, byteOf s.nextDue 2, byteOf s.nextDue 3]

/-- PENDCOUNT: the number of entries in the list (R35). -/
def pendCount (s : State) : Byte := BitVec.ofNat 8 s.plist.length

/-! ### Notification and capture records (R163, R164) -/

/-- RESULT codes (R145). -/
def resultByte : ResultCode → Byte
  | .none => 0
  | .ok => 1
  | .unknown => 2
  | .range => 3
  | .state => 4
  | .past => 5
  | .full => 6

/-- INT 0, EXT 1 (R163). -/
def sourceCode : ClockSource → BitVec 1
  | .int => 0
  | .ext => 1

/-- FIRE outcome codes; 5 and 6 are those of a NOTIFY slot, whose line is NONE (R163). -/
def outcomeCode (line : Option LineId) : FireOutcome → BitVec 3
  | .done => if line.isNone then 5 else 0
  | .preempt => 1
  | .underrun => 2
  | .blocked => 3
  | .dropped => if line.isNone then 6 else 4

/-- The line bits of a FIRE entry, 0 for NONE (R163). -/
def lineCode4 : Option LineId → BitVec 4
  | some l => BitVec.ofNat 4 l.val
  | none => 0

/-- The slot position of a non-FIRE kind (R130, R163). -/
def NotificationBody.slotField : NotificationBody → Option SlotId
  | .fire r => some r.slot
  | .chainMiss slot _ => some slot
  | .triggerMiss slot _ => some slot
  | .guardTrip _ | .patternEmpty _ | .mark | .synced _ | .captureLevel _ | .captureLost _ => none
  | .clockSwitched _ | .clockFail | .clockLoss | .cmdDone _ _ | .overflow _ => none

/-- The line position of a non-FIRE kind, NONE 0xFF (R130, R163). -/
def NotificationBody.lineByte : NotificationBody → Byte
  | .guardTrip line => BitVec.ofNat 8 line.val
  | .patternEmpty line => BitVec.ofNat 8 line.val
  | .fire _ | .chainMiss _ _ | .triggerMiss _ _ | .mark | .synced _ | .captureLevel _ => 0xFF
  | .captureLost _ | .clockSwitched _ | .clockFail | .clockLoss | .cmdDone _ _ | .overflow _ => 0xFF

/-- The channel position of a non-FIRE kind, NONE 0xFF (R130, R163). -/
def NotificationBody.channelByte : NotificationBody → Byte
  | .triggerMiss _ channel => BitVec.ofNat 8 channel.val
  | .captureLost channel => BitVec.ofNat 8 channel.val
  | .fire _ | .chainMiss _ _ | .guardTrip _ | .patternEmpty _ | .mark | .synced _ => 0xFF
  | .captureLevel _ | .clockSwitched _ | .clockFail | .clockLoss | .cmdDone _ _ | .overflow _ => 0xFF

/-- The aux position; 0 where the kind carries none (R130, R163). Bits 31:16 of CMD_DONE's, which R163 does not list, read 0,
the model's choice (log 14). -/
def NotificationBody.auxWord : NotificationBody → BitVec 32
  | .fire r => r.aux
  | .chainMiss _ target => BitVec.ofNat 32 target.val
  | .synced oldT => oldT
  | .captureLevel count => BitVec.ofNat 32 count
  | .clockSwitched source => (sourceCode source).setWidth 32
  | .cmdDone code result => 0#16 ++ resultByte result ++ code
  | .triggerMiss _ _ | .guardTrip _ | .patternEmpty _ | .mark | .captureLost _ => 0
  | .clockFail | .clockLoss | .overflow _ => 0

/-- Bytes 0 to 3 of a notification (R163). -/
def NotificationBody.headBytes : NotificationBody → Vector Byte 4
  | .fire r =>
    #v[1#1 ++ BitVec.ofBool r.last ++ BitVec.ofNat 6 r.slot.val,
       BitVec.ofBool r.late ++ outcomeCode r.line r.outcome ++ lineCode4 r.line,
       byteOf r.skips 0, byteOf r.skips 1]
  | .overflow lost => #v[0x0D, byteOf lost 0, byteOf lost 1, 0xFF]
  | b => #v[BitVec.ofNat 8 b.kindCode, slotByte b.slotField, b.lineByte, b.channelByte]

/-- The notification port's record of an entry, or of the empty entry (R163). -/
def notificationImage : Option Notification → Vector Byte 12
  | none => #v[0x00, 0xFF, 0xFF, 0xFF, 0, 0, 0, 0, 0, 0, 0, 0]
  | some n =>
    n.body.headBytes ++ #v[byteOf n.stamp 0, byteOf n.stamp 1, byteOf n.stamp 2, byteOf n.stamp 3,
      byteOf n.body.auxWord 0, byteOf n.body.auxWord 1, byteOf n.body.auxWord 2, byteOf n.body.auxWord 3]

/-- RISE 0, FALL 1 (R164). -/
def edgeCode : Edge → BitVec 1
  | .rise => 0
  | .fall => 1

/-- The capture port's record of the capture latch (R164). Bits 3:1 of byte 1, which R164 does not list, read 0, the model's
choice (log 14). -/
def captureImage (x : CaptureLatch) : Vector Byte 6 :=
  match x.record with
  | none => #v[0xFF, 0, 0, 0, 0, 0]
  | some r =>
    #v[BitVec.ofNat 8 r.channel.val, BitVec.ofNat 4 x.left ++ 0#3 ++ edgeCode r.edge,
       byteOf r.stamp 0, byteOf r.stamp 1, byteOf r.stamp 2, byteOf r.stamp 3]

end Sys2Proof.Machine
end

