-- ==== Sys2Proof/Machine/Flags.lean ====
section
/-! DEFINITION. The flags and pin levels that are computed from the records: STATUS (R158), IRQN (R137), the pins
of the output lines (R56), and the byte of CTRL (R160). -/

namespace Sys2Proof.Machine

/-- A switch to REFCLK is pending (R107). -/
def SwitchState.isPending : SwitchState → Bool
  | .none => false
  | .pendingExt _ => true

/-- STATUS: DONE, BUSY, COLLIDE, LOCKVIOL, RUNNING, DEGRADED, SWITCH_PENDING and HOLD in bits 0 to 7 (R158). -/
def statusByte (s : State) : Byte :=
  BitVec.ofBool s.pins.holdnLow ++ BitVec.ofBool s.clock.switching.isPending ++ BitVec.ofBool s.clock.degraded
    ++ BitVec.ofBool s.timebase.running ++ BitVec.ofBool s.lineUnit.lockViol ++ BitVec.ofBool s.cmd.collide
    ++ BitVec.ofBool s.busy ++ BitVec.ofBool s.cmd.done

/-- IRQN is asserted, driven low, while the queue holds an entry and the IRQ enable is on (R137). -/
def State.irqnAsserted (s : State) : Bool := !s.queue.entries.isEmpty && s.queue.irqEnable

/-- CTRL: SYNC enable, IRQ enable, P and SOURCE (R160). Bit 7, which R160 does not list, reads 0, the model's choice
(log 14). -/
def ctrlByte (s : State) : Byte :=
  0#1 ++ sourceCode s.clock.source ++ BitVec.ofNat 4 s.timebase.prescaler.val
    ++ BitVec.ofBool s.queue.irqEnable ++ BitVec.ofBool s.timebase.syncEnable

/-- MARKSEL as it reads: the selected bit, 0 for OFF (R103, R104). -/
def markerByte : Option (Fin 32) → Byte
  | some b => BitVec.ofNat 8 b.val
  | none => 0

/-- What the part does to an output pin (R56). -/
inductive PinDrive where
  | highImpedance
  | high
  | low
  | released
  deriving DecidableEq, Repr

/-- The pin of a line: its level through its polarity and drive, whenever it is driven (R56). -/
def Line.pin (l : Line) : PinDrive :=
  if l.driven then
    match l.config.drive, l.level, l.config.polarity with
    | .pushPull, .active, .activeHigh => .high
    | .pushPull, .active, .activeLow => .low
    | .pushPull, .inactive, .activeHigh => .low
    | .pushPull, .inactive, .activeLow => .high
    | .openDrain, .active, .activeHigh => .released
    | .openDrain, .active, .activeLow => .low
    | .openDrain, .inactive, .activeHigh => .low
    | .openDrain, .inactive, .activeLow => .released
  else .highImpedance

/-- SDO drives in READ, from the read of the first data byte on (R153). -/
def State.sdoDriven (s : State) : Bool := s.port.sdo.isSome

end Sys2Proof.Machine
end

