-- ==== Sys2Proof/Machine/Lines.lean ====
section
/-! DEFINITION. The Line Unit (03): actions, pulses, patterns, the guard, HOLDN, SAFE's line visits, the line
configuration commit and the line commands. -/

namespace Sys2Proof.Machine

/-! ### Actions (R60 to R62, R65) -/

/-- The Line Unit's answer to an action (R41). -/
inductive LineAnswer where
  | done
  | preempted (slot : SlotId)
  | underrun
  | blocked
  deriving DecidableEq, Repr

/-- What an action handed to a line comes to: the line after it, the answer, and whether it took the last bit of
the line's patterns (R41, R65). -/
structure ActionResult where
  line         : Line
  answer       : LineAnswer
  patternEmpty : Bool
  deriving DecidableEq, Repr

/-- The opposite level (R61). -/
def Level.flip : Level → Level
  | .active => .inactive
  | .inactive => .active

/-- The level that a pattern's position stands for (R65). -/
def levelOfBit (b : Bool) : Level := if b then .active else .inactive

/-- An action sets a level: any pulse ends, the line is driven, and the guard count keeps running only where the
line stays driven ACTIVE (R60). -/
def Line.takeLevel (l : Line) (level : Level) : Line :=
  { l with
    level := level, driven := true, pulse := none,
    guardCount := if level = .active ∧ l.level = .active ∧ l.driven = true then l.guardCount else 0 }

/-- The answer of an action that ends any pulse on the line: preemption of another slot's pulse (R60). -/
def Line.answerTo (l : Line) (slot : SlotId) : LineAnswer :=
  match l.pulse with
  | some p => if p.owner = slot then .done else .preempted p.owner
  | none => .done

/-- The level that the next SHIFT takes: the highest of the positions still to be sent (R65). -/
def Pattern.nextLevel (p : Pattern) : Level := levelOfBit (p.word.getLsbD (p.count - 1))

/-- The pattern buffers after a SHIFT has taken a level (R65). -/
def Line.takeBit (l : Line) : Line :=
  if l.current.count = 1 then
    match l.next with
    | some p => { l with current := p, next := none }
    | none => { l with current := { l.current with count := 0 } }
  else { l with current := { l.current with count := l.current.count - 1 } }

/-- SHIFT on a NORMAL line (R65). -/
def Line.shift (l : Line) (slot : SlotId) : ActionResult :=
  if l.current.count = 0 then ⟨l, .underrun, false⟩
  else
    ⟨(l.takeLevel l.current.nextLevel).takeBit, l.answerTo slot,
      decide (l.current.count = 1) && l.next.isNone⟩

/-- An action handed to a line by a fire of `slot` (R60 to R62, R65). NOTIFY is not handed to the Line Unit (R41). -/
def Line.act (l : Line) (action : Action) (slot : SlotId) (width : BitVec 16) (fireTick : Tick) : ActionResult :=
  match l.mode with
  | .off | .tripped | .forced _ => ⟨l, .blocked, false⟩
  | .normal =>
    match action with
    | .set => ⟨l.takeLevel .active, l.answerTo slot, false⟩
    | .clear => ⟨l.takeLevel .inactive, l.answerTo slot, false⟩
    | .toggle => ⟨l.takeLevel l.level.flip, l.answerTo slot, false⟩
    | .pulse =>
      ⟨{ l.takeLevel .active with pulse := some ⟨slot, fireTick + width.setWidth 32⟩ }, l.answerTo slot, false⟩
    | .shift => l.shift slot
    | .notify => ⟨l, .done, false⟩

/-! ### Safe levels, trips, guard ticks (R68, R69, R72) -/

/-- The level a safe level stands for: INACTIVE for FLOAT (R72). -/
def SafeLevel.level : SafeLevel → Level
  | .active => .active
  | .inactive | .float => .inactive

/-- A line at its safe level is driven but for FLOAT (R72). -/
def SafeLevel.driven : SafeLevel → Bool
  | .float => false
  | .inactive | .active => true

/-- The line takes its safe level (R72, R75). -/
def Line.atSafeLevel (l : Line) : Line := { l with level := l.config.safe.level, driven := l.config.safe.driven }

/-- The guard counts a NORMAL line that is driven ACTIVE (R68). -/
def Line.guarded (l : Line) : Bool := l.mode == .normal && l.driven && l.level == .active

/-- A guard trip (R69). -/
def Line.tripped (l : Line) : Line :=
  { l with mode := .tripped, level := .inactive, driven := true, pulse := none, guardCount := 0 }

/-- The count that a guard tick brings a guarded line to (R68). -/
def Line.nextGuardCount (l : Line) : BitVec 16 := satAdd16 l.guardCount 1

/-- A guard tick trips the line: it brings the count to a guard limit that is not 0 (R69). -/
def Line.guardTrips (l : Line) : Bool :=
  l.guarded && l.config.guardLimit != 0 && l.nextGuardCount == l.config.guardLimit

/-- A guard tick on one line (R68, R69). -/
def Line.guardTick (l : Line) : Line :=
  if l.guardTrips then l.tripped
  else if l.guarded then { l with guardCount := l.nextGuardCount }
  else l

/-- Puts a line in its place among lines ordered by a key. -/
def insertByKey (key : LineId → Nat) (l : LineId) : List LineId → List LineId
  | [] => [l]
  | x :: rest => if key x ≤ key l then x :: insertByKey key l rest else l :: x :: rest

/-- The lines in the order of a key. -/
def orderByKey (key : LineId → Nat) : List LineId → List LineId
  | [] => []
  | l :: rest => insertByKey key l (orderByKey key rest)

/-- The lines that trip at a guard tick, by number. -/
def State.trippingLines (s : State) : List LineId :=
  (List.finRange 16).filter fun l => (s.line l).guardTrips

/-- A guard tick on every line at one moment; the GUARD_TRIP posts it leaves to come stand in a free order (R68, R69,
log 9). -/
def State.takeGuardTick (s : State) : State :=
  let order := orderByKey (Config.tripOrderKey s.draws) s.trippingLines
  let ticked := s.mapLines fun _ l => l.guardTick
  (ticked.withLineUnit { ticked.lineUnit with trips := order.map fun l => (l, s.now) }).withDraws (s.draws + 1)

/-- The GUARD_TRIP post of one tripped line, with T at its trip as its stamp (R69, R130). -/
def State.postTrip (s : State) (l : LineId) (stamp : Tick) (rest : List (LineId × Tick)) : State :=
  (s.withLineUnit { s.lineUnit with trips := rest }).post stamp (.guardTrip l)

/-- At most `n` of the GUARD_TRIP posts to come. -/
def State.postTrips : Nat → State → State
  | 0, s => s
  | n + 1, s =>
    match s.lineUnit.trips with
    | [] => s
    | (l, stamp) :: rest => postTrips n (s.postTrip l stamp rest)

/-- GUARD_TICK: the guard tick, then its posts, between which others may fall; while posts of the last guard tick are
still to come, the next of them (R68, R69, R132, log 24). -/
def execGuardTick (s : State) : Host.Outcome State Fault Refusal :=
  let ticked := if s.lineUnit.trips.isEmpty then s.takeGuardTick else s
  .next (if ticked.lineUnit.trips.isEmpty then ticked else (State.postTrips (s.further + 1) ticked).pauseTaken)

/-! ### Release of a pulse (R63) -/

/-- The release of a pulse (R63). -/
def Line.released (l : Line) : Line := { l with level := .inactive, pulse := none, guardCount := 0 }

/-- RELEASE_OF_A_PULSE: taken when the line's release time is due (R63). -/
def execReleaseOfAPulse (l : LineId) (s : State) : Host.Outcome State Fault Refusal :=
  .next (match (s.line l).pulse with
    | some p => if s.isDue p.release then s.setLine l (s.line l).released else s
    | none => s)

/-! ### HOLDN (R72, R73) -/

/-- A line is forced: it keeps the mode it left as its held mode, loses its pulse, takes its safe level (R72). -/
def Line.forced (l : Line) (held : HeldMode) : Line :=
  { l with mode := .forced held, pulse := none, guardCount := 0 }.atSafeLevel

/-- The assertion of HOLDN on one line (R72). -/
def Line.holdAsserted (l : Line) : Line :=
  match l.mode with
  | .normal => l.forced .normal
  | .tripped => l.forced .tripped
  | .off | .forced _ => l

/-- The release of HOLDN on one line (R73). -/
def Line.holdReleased (l : Line) : Line :=
  match l.mode with
  | .forced .normal => { l with mode := .normal, guardCount := 0 }.atSafeLevel
  | .forced .tripped => { l with mode := .tripped, level := .inactive, driven := true, guardCount := 0 }
  | .off | .normal | .tripped => l

/-- HOLDN_ASSERTION: the pin falls (R72). -/
def execHoldnAssertion (s : State) : Host.Outcome State Fault Refusal :=
  .next (if s.pins.holdnLow then s
    else (s.mapLines fun _ l => l.holdAsserted).withPins { s.pins with holdnLow := true })

/-- HOLDN_RELEASE: the pin rises (R73). -/
def execHoldnRelease (s : State) : Host.Outcome State Fault Refusal :=
  .next (if s.pins.holdnLow then
      (s.mapLines fun _ l => l.holdReleased).withPins { s.pins with holdnLow := false }
    else s)

/-! ### Configuration and the lock (R58, R59) -/

/-- The response of a line to the enabled field of a commit (R58, first three rows). -/
def Line.commitEnable (l : Line) (new : LineConfig) (holdnLow : Bool) : Line :=
  let l' : Line := { l with config := new }
  if !l.config.enabled && new.enabled then
    if holdnLow then { l' with mode := .forced .normal, guardCount := 0 }.atSafeLevel
    else { l' with mode := .normal, level := .inactive, driven := true, guardCount := 0 }
  else if l.config.enabled && !new.enabled then
    { l' with mode := .off, level := .inactive, driven := false, pulse := none, guardCount := 0 }
  else l'

/-- A FORCED line moves to a changed safe level at once (R58). -/
def Line.commitSafe (l : Line) (old : SafeLevel) : Line :=
  match l.mode with
  | .forced _ => if l.config.safe != old then l.atSafeLevel else l
  | .off | .normal | .tripped => l

/-- A changed guard limit that a guarded line's count has reached already trips the line (R58). -/
def Line.commitTrips (l : Line) (old : BitVec 16) : Bool :=
  l.config.guardLimit != old && l.config.guardLimit != 0 && l.guarded
    && decide (l.config.guardLimit.toNat ≤ l.guardCount.toNat)

/-- A commit of the five configuration fields on one line, its effects in the order of R58's table; the second
part says whether the guard trips. -/
def Line.commit (l : Line) (new : LineConfig) (holdnLow : Bool) : Line × Bool :=
  let l' := (l.commitEnable new holdnLow).commitSafe l.config.safe
  if l'.commitTrips l.config.guardLimit then (l'.tripped, true) else (l', false)

/-- The line that LINESEL names (R159). -/
def State.selectedLine (s : State) : LineId := ⟨s.window.lineSel.toNat, s.window.lineSel.isLt⟩

/-- A commit taken by the Line Unit: ignored as a whole under the lock, raising LOCKVIOL (R59), otherwise taken
by the selected line (R58). -/
def State.commitLine (s : State) (new : LineConfig) : State :=
  if s.lineUnit.locked then s.withLineUnit { s.lineUnit with lockViol := true }
  else
    let out := (s.line s.selectedLine).commit new s.pins.holdnLow
    (s.setLine s.selectedLine out.1).postIf s.now
      (if out.2 then some (.guardTrip s.selectedLine) else none)

/-- A write of the highest byte of the line configuration window: the holding byte takes it and the holding
content commits (R155). -/
def State.writeLineConfigTop (s : State) (v : Byte) : State :=
  let held := putByte s.window.hold.lineConfig 2 v
  (s.withWindow { s.window with hold := { s.window.hold with lineConfig := held } }).commitLine
    (lineConfigOf held)

/-- LINE_CONFIGURATION_COMMIT: the byte at 0x43 is written (R58, R155). -/
def execLineConfigurationCommit (v : Byte) (s : State) : Host.Outcome State Fault Refusal :=
  .next (s.writeAt 0x43 fun s => s.writeLineConfigTop v)

/-! ### The line commands (R59, R66, R67, R71, R74) -/

/-- LOAD_PATTERN's owner (R66). -/
def loadPatternCommand (s : State) : State :=
  match lineArg (s.arg 0) with
  | none => s.finish .range
  | some l =>
    match lengthArg (s.arg 5) with
    | none => s.finish .range
    | some length =>
      if (s.line l).next.isSome then s.finish .full
      else if (s.line l).current.count = 0 then
        (s.setLine l { s.line l with current := ⟨s.argWord1, length⟩ }).finish .ok
      else (s.setLine l { s.line l with next := some ⟨s.argWord1, length⟩ }).finish .ok

/-- LOAD_PATTERN, code 0x30 (R66). -/
def execLoadPattern (s : State) : Host.Outcome State Fault Refusal :=
  .next (s.writeCmdByte 0x30 loadPatternCommand)

/-- Both pattern buffers of a line are emptied (R67). -/
def Line.clearPatterns (l : Line) : Line := { l with current := Pattern.drained, next := none }

/-- CLEAR_PATTERN's owner (R67). -/
def clearPatternCommand (s : State) : State :=
  match lineArg (s.arg 0) with
  | none => s.finish .range
  | some l => (s.setLine l (s.line l).clearPatterns).finish .ok

/-- CLEAR_PATTERN, code 0x31 (R67). -/
def execClearPattern (s : State) : Host.Outcome State Fault Refusal :=
  .next (s.writeCmdByte 0x31 clearPatternCommand)

/-- CLEAR_TRIP's owner (R71). -/
def clearTripCommand (s : State) : State :=
  match lineArg (s.arg 0) with
  | none => s.finish .range
  | some l =>
    match (s.line l).mode with
    | .tripped => (s.setLine l { s.line l with mode := .normal, guardCount := 0 }).finish .ok
    | .off | .normal | .forced _ => s.finish .state

/-- CLEAR_TRIP, code 0x32 (R71). -/
def execClearTrip (s : State) : Host.Outcome State Fault Refusal :=
  .next (s.writeCmdByte 0x32 clearTripCommand)

/-- LOCK_LINES' owner (R59). -/
def lockLinesCommand (s : State) : State :=
  if s.lineUnit.locked then s.finish .state
  else (s.withLineUnit { s.lineUnit with locked := true }).finish .ok

/-- LOCK_LINES, code 0x33 (R59). -/
def execLockLines (s : State) : Host.Outcome State Fault Refusal :=
  .next (s.writeCmdByte 0x33 lockLinesCommand)

/-- The next of a walk's 64 slots, none after slot 63. -/
def nextSlot (i : SlotId) : Option SlotId := if h : i.val + 1 < 64 then some ⟨i.val + 1, h⟩ else none

/-- The next of the 16 lines, none after line 15. -/
def nextLine (l : LineId) : Option LineId := if h : l.val + 1 < 16 then some ⟨l.val + 1, h⟩ else none

/-- What a walk of the Slot Table does after its visit to `i`: the next slot, or `last` after slot 63 (R74, R80). -/
def afterSlot (i : SlotId) (visit : SlotId → Work) (last : Work) : Work :=
  match nextSlot i with
  | some j => visit j
  | none => last

/-- A NORMAL line goes to rest at its safe level, without pulse or patterns (R75, R78). -/
def Line.safed (l : Line) : Line :=
  { l with pulse := none, guardCount := 0 }.clearPatterns.atSafeLevel

/-- SAFE's visit to one line (R75). -/
def Line.safeVisit (l : Line) : Line :=
  match l.mode with
  | .normal => l.safed
  | .off | .tripped | .forced _ => l

/-- A line at SOFT_RESET, by its mode; every pattern is emptied (R78). -/
def Line.softReset (l : Line) : Line :=
  match l.mode with
  | .normal => l.safed
  | .off | .tripped | .forced _ => l.clearPatterns

end Sys2Proof.Machine
end

