-- ==== Sys2Proof/Machine/Fire.lean ====
section
/-! DEFINITION. The Dispatcher's handling of one fire, stage by stage (02, sections 2.4 to 2.7). -/

namespace Sys2Proof.Machine

/-- The lateness λ of an occurrence, measured at the fire tick; 2^31 for an entry kept due (R39). -/
def State.lateness (s : State) (e : Entry) : Nat := (-(s.entryDist s.now e)).toNat

/-- The copy of a fire's working state, taken with the entry, and its lateness (R38, R39). -/
def State.fireCopy (s : State) (e : Entry) : FireCopy where
  slot     := e.slot
  desc     := (s.slot e.slot).desc
  nominal  := (s.slot e.slot).due
  fireTick := s.now
  stamp    := s.now
  lam      := s.lateness e

/-- Stage three: a DROP occurrence later than its tolerance is dropped (R40). -/
def Descriptor.drops (d : Descriptor) (lam : Nat) : Bool := d.late == .drop && decide (d.tolerance.toNat < lam)

/-- The flag an answer of the Line Unit adds to the fire (R41). -/
def LineAnswer.outcome : LineAnswer → FireOutcome
  | .done => .done
  | .preempted _ => .preempt
  | .underrun => .underrun
  | .blocked => .blocked

/-- The preempted slot that an answer names (R41). -/
def LineAnswer.preemptedSlot : LineAnswer → Option SlotId
  | .preempted p => some p
  | .done | .underrun | .blocked => none

/-- The line an applied occurrence hands its action to: none for NOTIFY (R40). -/
def Descriptor.actsOn (d : Descriptor) : Option LineId := if d.action = .notify then none else d.line

/-- What the Line Unit makes of the action of an applied occurrence: the line after it, the answer, and whether the
pattern has run empty (R41). -/
def State.handOver (s : State) (c : FireCopy) (l : LineId) : ActionResult :=
  (s.line l).act c.desc.action c.slot c.desc.width c.fireTick

/-- What stage three finds: the occurrence dropped, or the answer to its action (R40, R41). -/
def State.applied (s : State) (c : FireCopy) : Applied :=
  if c.desc.drops c.lam then ⟨.dropped, none⟩
  else
    match c.desc.actsOn with
    | none => ⟨.done, none⟩
    | some l => ⟨(s.handOver c l).answer.outcome, (s.handOver c l).answer.preemptedSlot⟩

/-- What stage three does: an applied occurrence's action on its line, and the PATTERN_EMPTY of a SHIFT that took the last
bit (R40, R41, R65). -/
def State.applyStage (s : State) (c : FireCopy) : State :=
  if c.desc.drops c.lam then s
  else
    match c.desc.actsOn with
    | none => s
    | some l =>
      (s.setLine l (s.handOver c l).line).postIf s.now
        (if (s.handOver c l).patternEmpty then some (.patternEmpty l) else none)

/-- Stage four: accounting (R42). -/
def Slot.accounted (r : Slot) (d : Descriptor) : Slot :=
  { r with
    occurrences := satAdd16 r.occurrences 1
    repeatsLeft := if d.counted then BitVec.ofNat 16 (r.repeatsLeft.toNat - 1) else r.repeatsLeft }

/-- The number of occurrences past by more than the tolerance, from one past by `past` on, each `period` later
than the one before (R44): the least number of periods that brings the next due time within the tolerance. -/
def overdueCount (past : Int) (tolerance period : Nat) : Nat :=
  if past ≤ tolerance then 0 else ((past - tolerance).toNat + period - 1) / period

/-- The due time of the occurrence after this one (R43). -/
def FireCopy.nextNominal (c : FireCopy) : Tick := c.nominal + c.desc.period.setWidth 32

/-- The skip count of a fire that leaves `left` repeats after accounting: none under FIRE or where the slot has
completed, otherwise what R44 passes over, at most the repeats left of a counted slot (R43 to R45). -/
def FireCopy.skips (c : FireCopy) (left : BitVec 16) : Nat :=
  if c.desc.period = 0 ∨ c.desc.late = .fire then 0
  else
    let overdue :=
      overdueCount (pastBy c.nextNominal c.fireTick) c.desc.tolerance.toNat c.desc.period.toNat
    if c.desc.counted then min overdue left.toNat else overdue

/-- Stage five completes the slot: a one-shot, or a counted slot that has spent its repeats in accounting or while
skipping (R43, R46). -/
def FireCopy.completes (c : FireCopy) (left : BitVec 16) : Bool :=
  c.desc.period == 0 || (c.desc.counted && c.skips left == left.toNat)

/-- The record of a slot that completes (R46). -/
def Slot.completed (r : Slot) (c : FireCopy) (skips : Nat) : Slot :=
  if c.desc.autoRelease then Slot.cleared
  else
    { r with
      state := .loaded, due := c.nominal, repeatsLeft := 0, skipTotal := satAdd16 r.skipTotal (min skips 65535) }

/-- The record of a slot that is re-armed, but for its placement (R44, R47). -/
def Slot.rearmed (r : Slot) (c : FireCopy) (skips : Nat) : Slot :=
  { r with
    repeatsLeft := if c.desc.counted then BitVec.ofNat 16 (r.repeatsLeft.toNat - skips) else r.repeatsLeft
    skipTotal := satAdd16 r.skipTotal (min skips 65535) }

/-- The due time of a re-armed slot, past the occurrences skipped (R43, R44). -/
def FireCopy.rearmDue (c : FireCopy) (skips : Nat) : Tick :=
  c.nextNominal + BitVec.ofNat 32 skips * c.desc.period.setWidth 32

/-- Stages four and five: accounting, then re-arm or completion (R42 to R47). -/
def State.accountAndPlace (s : State) (c : FireCopy) : State :=
  let r := (s.slot c.slot).accounted c.desc
  let skips := c.skips r.repeatsLeft
  if c.completes r.repeatsLeft then s.setSlot c.slot (r.completed c skips)
  else s.placeSlot c.slot (r.rearmed c skips) (c.rearmDue skips) c.fireTick

/-- The due time a chain gives its target: the nominal due time plus the chain offset (R48). -/
def FireCopy.chainDue (c : FireCopy) : Tick := c.nominal + c.desc.chainOffset.setWidth 32

/-- The target that stage six asks to arm: none for a dropped occurrence or without a chain (R48). -/
def FireCopy.target (c : FireCopy) (outcome : FireOutcome) : Option SlotId :=
  if outcome = .dropped then none else c.desc.chain

/-- Stage six: a LOADED target is armed (R48), any other is missed (R49). -/
def State.chain (s : State) (c : FireCopy) (outcome : FireOutcome) : State :=
  match c.target outcome with
  | none => s
  | some i =>
    match (s.slot i).state with
    | .loaded => s.armSlot i c.chainDue c.fireTick
    | .empty | .pending | .suspended => s

/-- The target that stage six misses (R49). -/
def State.chainMissed (s : State) (c : FireCopy) (outcome : FireOutcome) : Option SlotId :=
  match c.target outcome with
  | none => none
  | some i =>
    match (s.slot i).state with
    | .loaded => none
    | .empty | .pending | .suspended => some i

/-- The notify field calls for a FIRE notification (R50). -/
def NotifyMode.calls : NotifyMode → Bool → Bool
  | .none, _ => false
  | .each, _ => true
  | .last, completing => completing

/-- What a FIRE notification reports (R50). -/
def FireCopy.report (c : FireCopy) (a : Applied) (last : Bool) (skips : Nat) : FireReport where
  slot    := c.slot
  line    := c.desc.line
  aux     := match a.preempted with
    | some p => BitVec.ofNat 32 p.val
    | none => BitVec.ofNat 32 c.lam
  late    := decide (0 < c.lam)
  last    := last
  outcome := a.outcome
  skips   := BitVec.ofNat 16 (min skips 65535)

/-- The repeats left after accounting, on which completion and skipping turn (R42 to R44). -/
def State.leftAfterAccounting (s : State) (c : FireCopy) : BitVec 16 :=
  ((s.slot c.slot).accounted c.desc).repeatsLeft

/-! ### The stages, each a happening of its own (R38, R51, R53) -/

/-- A fire takes one stage (R40 to R51). Accounting and placement are one stage, since nothing but the fire itself reaches
the slot's counts between them (R9). -/
def State.fireStage (s : State) (c : FireCopy) : FireStage → State
  | .apply => (s.applyStage c).withDispatcher (.firing c (.place (s.applied c)))
  | .place a =>
    let left := s.leftAfterAccounting c
    (s.accountAndPlace c).withDispatcher (.firing c (.chain a (c.completes left) (c.skips left)))
  | .chain a last skips =>
    (s.chain c a.outcome).withDispatcher (.firing c (.notify a last skips (s.chainMissed c a.outcome)))
  | .notify a last skips missed =>
    (s.postIf c.stamp (if c.desc.notify.calls last then some (.fire (c.report a last skips)) else none)).withDispatcher
      (match missed with
        | some j => .firing c (.miss j)
        | none => .idle)
  | .miss j => (s.post c.stamp (.chainMiss c.slot j)).withDispatcher .idle

/-- A fire in progress takes at most `n` stages. -/
def State.runFire : Nat → State → State
  | 0, s => s
  | n + 1, s =>
    match s.dispatcher with
    | .idle => s
    | .firing c stage => runFire n (s.fireStage c stage)

/-- A fire in progress runs to its end. -/
def State.endFire (s : State) : State := s.runFire 5

/-- The taking of the head entry: it is removed and the fire's working state copied (R38, R39). -/
def State.takeHead (s : State) (e : Entry) (rest : List Entry) : State :=
  (s.withPlist rest).withDispatcher (.firing (s.fireCopy e) .apply)

/-- FIRE: the Dispatcher, IDLE, takes the head of the list when it is due, and the fire runs on; FIRING, it goes on with
the fire it has. Other happenings fall between its stages where `pauses` lets them in (R37, R38, R51, log 24). -/
def execFire (s : State) : Host.Outcome State Fault Refusal :=
  .next (match s.dispatcher with
    | .firing c stage => (State.runFire s.further (s.fireStage c stage)).pauseTaken
    | .idle =>
      match s.plist with
      | [] => s
      | e :: rest => if s.headDue e then (State.runFire s.further (s.takeHead e rest)).pauseTaken else s)

/-! ### Claims on the slot being fired (R9, R38) -/

/-- The slot that a fire in progress has claimed. -/
def State.firedSlot (s : State) : Option SlotId :=
  match s.dispatcher with
  | .idle => none
  | .firing c _ => some c.slot

/-- A claim on slot `i`: where a fire has claimed the slot, the fire runs to its end first (R9, R38, log 24). -/
def State.claim (s : State) (i : SlotId) : State := if s.firedSlot = some i then s.endFire else s

end Sys2Proof.Machine
end

