-- ==== Sys2Proof/Machine/Capture.lean ====
section
/-! DEFINITION. The Capture Unit (07): the filters, accepted edges, the capture FIFO, triggers and the channel
configuration commit. -/

namespace Sys2Proof.Machine

/-- The kind of a change to a level (R122). -/
def edgeTo (level : Bool) : Edge := if level then .rise else .fall

/-- An accepted edge matches the edge select (R122). -/
def EdgeSelect.matches : EdgeSelect → Edge → Bool
  | .off, _ => false
  | .rise, e => e == .rise
  | .fall, e => e == .fall
  | .both, _ => true

/-- A record offered to the capture FIFO (R123). -/
def State.offerRecord (s : State) (r : CaptureRecord) : State :=
  if s.capture.fifo.length < 16 then
    (s.withCapture { s.capture with fifo := s.capture.fifo ++ [r] }).postIf s.now
      (if s.capture.fifo.length + 1 = s.capture.watermark then
        some (.captureLevel (s.capture.fifo.length + 1)) else none)
  else s.post r.stamp (.captureLost r.channel)

/-- A trigger arm: a LOADED slot is armed with the due time, any other misses (R124). It is a claim on the slot (R9). -/
def State.triggerArm (s : State) (k : ChannelId) (a : TriggerArm) : State :=
  let claimed := s.claim a.slot
  match (claimed.slot a.slot).state with
  | .loaded => claimed.armSlot a.slot a.due claimed.now
  | .empty | .pending | .suspended => claimed.post claimed.now (.triggerMiss a.slot k)

/-- The trigger arm that channel `k` still has to ask for is asked for (R122). -/
def State.takeArm (s : State) (k : ChannelId) : State :=
  match (s.channel k).arm with
  | none => s
  | some a => (s.setChannel k { s.channel k with arm := none }).triggerArm k a

/-- The trigger arms still to be asked for are asked for, channel by channel. -/
def State.takeArms (s : State) : State := (List.finRange 4).foldl State.takeArm s

/-- The trigger arm of an edge with the given stamp, where the channel has a trigger slot (R124). -/
def Channel.armFor (c : Channel) (stamp : Tick) : Option TriggerArm :=
  c.trigger.map fun i => ⟨i, stamp + c.offset.setWidth 32⟩

/-- An accepted edge is handled: a matching one is recorded, then its trigger arm is asked for. Other happenings fall
between the two where `pauses` lets them in (R122, log 24). -/
def State.handleEdge (s : State) (k : ChannelId) (edge : Edge) (stamp : Tick) : State :=
  if (s.channel k).edge.matches edge then
    let recorded := s.offerRecord ⟨k, edge, stamp⟩
    match (s.channel k).armFor stamp with
    | none => recorded
    | some a =>
      let asked := (recorded.setChannel k { recorded.channel k with arm := some a }).pauseTaken
      if s.further = 0 then asked else asked.takeArm k
  else s

/-- A channel's filter becomes STABLE at a level and the change to it is accepted with a stamp; the channel has handed its
last edge on whole before (R117, R118, R122). -/
def State.acceptEdge (s : State) (k : ChannelId) (level : Bool) (stamp : Tick) : State :=
  let ready := s.takeArm k
  (ready.setChannel k { ready.channel k with filter := .stable level }).handleEdge k (edgeTo level) stamp

/-- The filter of a channel works (R117). -/
def State.filterWorks (s : State) (k : ChannelId) : Bool :=
  s.timebase.running && (s.channel k).edge != .off

/-- The filter's part in a change of its input to `level` (R117). -/
def State.followInput (s : State) (k : ChannelId) (level : Bool) : State :=
  let c := s.channel k
  if s.filterWorks k then
    match c.filter with
    | .stable l =>
      if level = l then s
      else if c.filterLength = 0 then s.acceptEdge k level s.now
      else
        s.setChannel k
          { c with filter := .qualifying l s.now (s.now + c.filterLength.setWidth 32) }
    | .qualifying l _ _ => s.setChannel k { c with filter := .stable l }
  else s.setChannel k { c with filter := .stable level }

/-- CAPTURE_INPUT_CHANGE: an input takes its other level (R117). -/
def execCaptureInputChange (k : ChannelId) (s : State) : Host.Outcome State Fault Refusal :=
  .next ((s.withPins { s.pins with k := s.pins.k.set k (!s.inputLevel k) }).followInput k (!s.inputLevel k))

/-- ACCEPTANCE: taken when a qualifying filter's acceptance time is due; the stable level becomes the level held
since the candidate stamp (R118). Where the channel's last edge has its trigger arm still to come, that is taken (R122,
log 24). -/
def execAcceptance (k : ChannelId) (s : State) : Host.Outcome State Fault Refusal :=
  .next (if (s.channel k).arm.isSome then s.takeArm k
    else
      match (s.channel k).filter with
      | .stable _ => s
      | .qualifying l stamp accept => if s.isDue accept then s.acceptEdge k (!l) stamp else s)

/-- The configuration that the six bytes of the channel configuration window stand for (R121, R162); the filter is
kept. -/
def Channel.configured (c : Channel) (x : BitVec 48) : Channel :=
  { c with
    edge := edgeSelectOf (x.extractLsb' 0 2), filterLength := byteOf x 1,
    trigger := triggerOf (byteOf x 2), offset := x.extractLsb' 24 24 }

/-- The channel that CAPSEL names (R159). -/
def State.selectedChannel (s : State) : ChannelId := ⟨s.window.capSel.toNat, s.window.capSel.isLt⟩

/-- A commit taken by the Capture Unit on the selected channel: the fields take the committed values, then the
filter responds (R121). -/
def State.commitChannel (s : State) (x : BitVec 48) : State :=
  let k := s.selectedChannel
  let c := (s.channel k).configured x
  match c.filter with
  | .stable _ => s.setChannel k c
  | .qualifying l stamp _ =>
    if c.edge = .off then s.setChannel k { c with filter := .stable (s.inputLevel k) }
    else if c.filterLength = (s.channel k).filterLength then s.setChannel k c
    else
      let accept := stamp + c.filterLength.setWidth 32
      let s' := s.setChannel k { c with filter := .qualifying l stamp accept }
      if s'.isDue accept then s'.acceptEdge k (!l) stamp else s'

/-- A write of the highest byte of the channel configuration window (R155). -/
def State.writeCapConfigTop (s : State) (v : Byte) : State :=
  let held := putByte s.window.hold.capConfig 5 v
  (s.withWindow { s.window with hold := { s.window.hold with capConfig := held } }).commitChannel held

/-- CHANNEL_CONFIGURATION_COMMIT: the byte at 0x53 is written (R121, R155). -/
def execChannelConfigurationCommit (v : Byte) (s : State) : Host.Outcome State Fault Refusal :=
  .next (s.writeAt 0x53 fun s => s.writeCapConfigTop v)

/-- FLUSH_CAPTURE's owner (R126). -/
def flushCaptureCommand (s : State) : State := (s.withCapture { s.capture with fifo := [] }).finish .ok

/-- FLUSH_CAPTURE, code 0x38 (R126). -/
def execFlushCapture (s : State) : Host.Outcome State Fault Refusal :=
  .next (s.writeCmdByte 0x38 flushCaptureCommand)

/-- A pop of the capture FIFO: the head, or the empty record, goes into the capture latch (R125). -/
def State.popCapture (s : State) : State :=
  match s.capture.fifo with
  | [] => s.withCapture { s.capture with latch := ⟨none, 0⟩ }
  | r :: rest => s.withCapture { s.capture with fifo := rest, latch := ⟨some r, rest.length⟩ }

/-- Every filter becomes STABLE at the present level of its input (R128). -/
def State.settleFilters (s : State) : State :=
  s.mapChannels fun k c => { c with filter := .stable (s.inputLevel k) }

end Sys2Proof.Machine
end

