-- ==== Sys2Proof/Machine/ClockUnit.lean ====
section
/-! DEFINITION. The Clock Unit (06): SWITCH_CLOCK, the REFCLK monitor, confirmation, timeout and loss. -/

namespace Sys2Proof.Machine

/-- A taken SWITCH_CLOCK INT (R109, R111). -/
def State.switchToInt (s : State) : State :=
  ((s.withClock { s.clock with source := .int, degraded := false, monitor := .idle, gap := none }).handover).post
    s.now (.clockSwitched .int)

/-- A taken SWITCH_CLOCK EXT: the switch is pending (R110). -/
def State.requestExt (s : State) : State :=
  s.withClock { s.clock with switching := .pendingExt 0, monitor := .confirming 0, gap := some 0 }

/-- SWITCH_CLOCK's owner (R109, R110). -/
def switchClockCommand (s : State) : State :=
  match sourceArg (s.arg 0) with
  | none => s.finish .range
  | some src =>
    if s.clock.switching.isPending then s.finish .state
    else if src = s.clock.source then s.finish .state
    else
      match src with
      | .int => s.switchToInt.finish .ok
      | .ext => s.requestExt.finish .ok

/-- SWITCH_CLOCK, code 0x28 (R109). -/
def execSwitchClock (s : State) : Host.Outcome State Fault Refusal :=
  .next (s.writeCmdByte 0x28 switchClockCommand)

/-- The 64th edge confirms the switch (R111). -/
def State.confirmSwitch (s : State) : State :=
  ((s.withClock ⟨.ext, .none, false, .watching, some 0⟩).handover).post s.now (.clockSwitched .ext)

/-- REFCLK_EDGE: a rising edge of REFCLK (R108, R110, R111). -/
def execRefclkEdge (s : State) : Host.Outcome State Fault Refusal :=
  .next (match s.clock.monitor with
    | .idle => s
    | .confirming count =>
      if count < 63 then s.withClock { s.clock with monitor := .confirming (count + 1), gap := some 0 }
      else s.confirmSwitch
    | .watching => s.withClock { s.clock with gap := some 0 })

/-- A loss of the reference: fallback to the internal oscillator (R113). -/
def State.loseReference (s : State) : State :=
  ((s.withClock { s.clock with source := .int, degraded := true, monitor := .idle, gap := none }).handover).post
    s.now .clockLoss

/-- GAP_TOO_LONG: the gap limit expires (R108, R110, R113). -/
def execGapTooLong (s : State) : Host.Outcome State Fault Refusal :=
  .next (match s.clock.monitor with
    | .idle => s
    | .confirming _ => s.withClock { s.clock with monitor := .confirming 0, gap := some 0 }
    | .watching => s.loseReference)

/-- A pending switch is given up: no switch, no timer, the monitor IDLE (R112, R115). -/
def Clock.abandonSwitch (c : Clock) : Clock :=
  match c.switching with
  | .none => c
  | .pendingExt _ => { c with switching := .none, monitor := .idle, gap := none }

/-- SWITCH_TIMEOUT: the switch timer reaches 1,000 µs (R112). -/
def execSwitchTimeout (s : State) : Host.Outcome State Fault Refusal :=
  .next (if s.clock.switching.isPending then
      (s.withClock s.clock.abandonSwitch).post s.now .clockFail
    else s)

end Sys2Proof.Machine
end

