-- ==== Sys2Proof/Machine/Groups.lean ====
section
/-! DEFINITION. The group commands and the visits of their walks (04). -/

namespace Sys2Proof.Machine

/-- SUSPEND_GROUP's owner (R80, R81). -/
def suspendGroupCommand (s : State) : State :=
  match groupArg (s.arg 0) with
  | none => s.finish .range
  | some g =>
    if (s.group g).suspended then s.finish .state
    else (s.setGroup g ⟨true, s.now⟩).work (.suspendWalk g 0)

/-- SUSPEND_GROUP, code 0x10 (R81). -/
def execSuspendGroup (s : State) : Host.Outcome State Fault Refusal :=
  .next (s.writeCmdByte 0x10 suspendGroupCommand)

/-- The distance that a slot's due time counts with: that of its entry where it has one (R28, R37). -/
def State.slotDist (s : State) (i : SlotId) : Int :=
  match s.plist.find? fun e => e.slot == i with
  | some e => s.entryDist s.now e
  | none => signedDistance (s.slot i).due s.now

/-- The SUSPEND_GROUP walk's visit to a slot (R81). -/
def State.suspendVisit (s : State) (g : GroupId) (i : SlotId) : State :=
  let r := s.slot i
  if r.desc.group = g then
    match r.state with
    | .pending =>
      (s.removeSlot i).setSlot i { r with state := .suspended, remaining := remainingFrom (s.slotDist i) }
    | .empty | .loaded | .suspended => s
  else s

/-- SUSPEND_GROUP_VISIT (R81). The visit claims its slot whatever the slot's group, so it falls inside no fire of it (R9, R80);
R82's last paragraph does not count a non-member as claimed, and which is meant is the model's choice (log 24). -/
def execSuspendGroupVisit (s : State) : Host.Outcome State Fault Refusal :=
  .next (match s.cmd.inHand with
    | some (.suspendWalk g i) =>
      ((s.claim i).suspendVisit g i).work (afterSlot i (.suspendWalk g) (.finished .ok))
    | _ => s)

/-- RESUME_GROUP's owner (R80, R83). -/
def resumeGroupCommand (s : State) : State :=
  match groupArg (s.arg 0) with
  | none => s.finish .range
  | some g =>
    if (s.group g).suspended then
      (s.setGroup g { s.group g with suspended := false }).work (.resumeWalk g 0)
    else s.finish .state

/-- RESUME_GROUP, code 0x11 (R83). -/
def execResumeGroup (s : State) : Host.Outcome State Fault Refusal :=
  .next (s.writeCmdByte 0x11 resumeGroupCommand)

/-- The RESUME_GROUP walk's visit to a slot (R83). -/
def State.resumeVisit (s : State) (g : GroupId) (i : SlotId) : State :=
  let r := s.slot i
  if r.desc.group = g then
    match r.state with
    | .suspended => (s.setSlot i { r with state := .pending, due := s.now + r.remaining }).insertSlot i
    | .empty | .loaded | .pending => s
  else s

/-- RESUME_GROUP_VISIT (R83). The visit claims its slot whatever the slot's group, so it falls inside no fire of it (R9, R80);
R82's last paragraph does not count a non-member as claimed, and which is meant is the model's choice (log 24). -/
def execResumeGroupVisit (s : State) : Host.Outcome State Fault Refusal :=
  .next (match s.cmd.inHand with
    | some (.resumeWalk g i) =>
      ((s.claim i).resumeVisit g i).work (afterSlot i (.resumeWalk g) (.finished .ok))
    | _ => s)

/-- DISARM_GROUP's owner (R80, R85). -/
def disarmGroupCommand (s : State) : State :=
  match groupArg (s.arg 0) with
  | none => s.finish .range
  | some g => s.work (.disarmWalk g 0)

/-- DISARM_GROUP, code 0x12 (R85). -/
def execDisarmGroup (s : State) : Host.Outcome State Fault Refusal :=
  .next (s.writeCmdByte 0x12 disarmGroupCommand)

/-- The DISARM_GROUP walk's visit to a slot (R85). -/
def State.disarmVisit (s : State) (g : GroupId) (i : SlotId) : State :=
  if (s.slot i).desc.group = g then s.disarmSlot i else s

/-- DISARM_GROUP_VISIT (R85). The visit claims its slot whatever the slot's group, so it falls inside no fire of it (R9, R80);
R82's last paragraph does not count a non-member as claimed, and which is meant is the model's choice (log 24). -/
def execDisarmGroupVisit (s : State) : Host.Outcome State Fault Refusal :=
  .next (match s.cmd.inHand with
    | some (.disarmWalk g i) =>
      ((s.claim i).disarmVisit g i).work (afterSlot i (.disarmWalk g) (.finished .ok))
    | _ => s)

end Sys2Proof.Machine
end

