-- ==== Sys2Proof/Machine/Safe.lean ====
section
/-! DEFINITION. SAFE and the visits of its walk, to the slots and then to the lines (03, section 3.8). -/

namespace Sys2Proof.Machine

/-- SAFE's owner: the walk of the Slot Table begins (R74). -/
def safeCommand (s : State) : State := s.work (.safeSlots 0)

/-- SAFE, code 0x34 (R74). -/
def execSafe (s : State) : Host.Outcome State Fault Refusal :=
  .next (s.writeCmdByte 0x34 safeCommand)

/-- What SAFE does after its visit to line `l`: the next line, or it is finished after line 15 (R75). -/
def afterLine (l : LineId) : Work :=
  match nextLine l with
  | some m => .safeLines m
  | none => .finished .ok

/-- SAFE_SLOT_VISIT: the visit to the walk's slot; after slot 63 the lines follow (R74, R75). -/
def execSafeSlotVisit (s : State) : Host.Outcome State Fault Refusal :=
  .next (match s.cmd.inHand with
    | some (.safeSlots i) =>
      ((s.claim i).disarmSlot i).work (afterSlot i .safeSlots (.safeLines 0))
    | _ => s)

/-- SAFE_LINE_VISIT: the visit to the stage's line; after line 15 the command is finished (R75). -/
def execSafeLineVisit (s : State) : Host.Outcome State Fault Refusal :=
  .next (match s.cmd.inHand with
    | some (.safeLines l) =>
      (s.setLine l (s.line l).safeVisit).work (afterLine l)
    | _ => s)

end Sys2Proof.Machine
end

