-- ==== Sys2Proof/Machine/Slots.lean ====
section
/-! DEFINITION. The six slot commands (01). Each checks the slot number, then the state, then its own arguments,
and answers the first failure (R10). -/

namespace Sys2Proof.Machine

/-- A slot command: a slot number above 63 is refused RANGE, any other is a claim on its slot, which waits for a fire of
that slot to end (R9, R10, R38). -/
def slotCommand (act : SlotId → State → State) (s : State) : State :=
  match slotArg (s.arg 0) with
  | none => s.finish .range
  | some i => act i (s.claim i)

/-- LOAD of a slot (R11, R12). -/
def loadAt (i : SlotId) (s : State) : State :=
  match (s.slot i).state with
  | .pending | .suspended => s.finish .state
  | .empty | .loaded =>
    match descriptorOf s.cmd.captured.staging with
    | none => s.finish .range
    | some d => (s.setSlot i { s.slot i with desc := d, state := .loaded }).finish .ok

/-- LOAD's owner. -/
def loadCommand : State → State := slotCommand loadAt

/-- LOAD, code 0x01 (R11). -/
def execLoad (s : State) : Host.Outcome State Fault Refusal :=
  .next (s.writeCmdByte 0x01 loadCommand)

/-- The first due time of an ARM: the time field, or T plus the time field; a REL time field of 2^31 or more has
none (R14). -/
def armDue (mode : ArmMode) (time now : Tick) : Option Tick :=
  match mode with
  | .abs => some time
  | .rel => if time.msb then none else some (now + time)

/-- The PAST check of ARM (R15). -/
def tooLate (d : Descriptor) (due now : Tick) : Bool :=
  d.late == .drop && decide (signedDistance due now < -(d.tolerance.toNat : Int))

/-- ARM of a slot (R14 to R16). -/
def armAt (i : SlotId) (s : State) : State :=
  match (s.slot i).state with
  | .empty | .pending | .suspended => s.finish .state
  | .loaded =>
    match armModeArg (s.arg 1) with
    | none => s.finish .range
    | some mode =>
      match armDue mode (s.slot i).desc.time s.now with
      | none => s.finish .range
      | some due =>
        if tooLate (s.slot i).desc due s.now then s.finish .past
        else (s.armSlot i due s.now).finish .ok

/-- ARM's owner. -/
def armCommand : State → State := slotCommand armAt

/-- ARM, code 0x02 (R16). -/
def execArm (s : State) : Host.Outcome State Fault Refusal :=
  .next (s.writeCmdByte 0x02 armCommand)

/-- DISARM of a slot (R18). -/
def disarmAt (i : SlotId) (s : State) : State :=
  match (s.slot i).state with
  | .empty | .loaded => s.finish .state
  | .pending | .suspended => (s.disarmSlot i).finish .ok

/-- DISARM's owner. -/
def disarmCommand : State → State := slotCommand disarmAt

/-- DISARM, code 0x03 (R18). -/
def execDisarm (s : State) : Host.Outcome State Fault Refusal :=
  .next (s.writeCmdByte 0x03 disarmCommand)

/-- RELEASE of a slot (R20, R8). -/
def releaseAt (i : SlotId) (s : State) : State :=
  match (s.slot i).state with
  | .empty | .pending | .suspended => s.finish .state
  | .loaded => (s.setSlot i Slot.cleared).finish .ok

/-- RELEASE's owner. -/
def releaseCommand : State → State := slotCommand releaseAt

/-- RELEASE, code 0x04 (R20). -/
def execRelease (s : State) : Host.Outcome State Fault Refusal :=
  .next (s.writeCmdByte 0x04 releaseCommand)

/-- The remaining time of a SUSPENDED slot moved by a signed delta, where it stays within 0 to 2^31 − 1 (R22). -/
def movedRemaining (remaining delta : BitVec 32) : Option Tick :=
  let moved := (remaining.toNat : Int) + delta.toInt
  if 0 ≤ moved ∧ moved < 2147483648 then some (BitVec.ofInt 32 moved) else none

/-- RETIME of a slot (R21, R22). -/
def retimeAt (i : SlotId) (s : State) : State :=
  let r := s.slot i
  match r.state with
  | .empty => s.finish .state
  | .loaded =>
    (s.setSlot i { r with desc := { r.desc with time := r.desc.time + s.argWord1 } }).finish .ok
  | .pending =>
    (((s.removeSlot i).setSlot i { r with due := r.due + s.argWord1 }).insertSlot i).finish .ok
  | .suspended =>
    match movedRemaining r.remaining s.argWord1 with
    | none => s.finish .range
    | some remaining => (s.setSlot i { r with remaining := remaining }).finish .ok

/-- RETIME's owner. -/
def retimeCommand : State → State := slotCommand retimeAt

/-- RETIME, code 0x05 (R21, R22). -/
def execRetime (s : State) : Host.Outcome State Fault Refusal :=
  .next (s.writeCmdByte 0x05 retimeCommand)

/-- QUERY of a slot (R24). -/
def queryAt (i : SlotId) (s : State) : State :=
  (s.withCmd { s.cmd with readback := s.slot i }).finish .ok

/-- QUERY's owner. -/
def queryCommand : State → State := slotCommand queryAt

/-- QUERY, code 0x06 (R24). -/
def execQuery (s : State) : Host.Outcome State Fault Refusal :=
  .next (s.writeCmdByte 0x06 queryCommand)

end Sys2Proof.Machine
end

