-- ==== Sys2Proof/Machine/Time.lean ====
section
/-! DEFINITION. The Timebase (05): counting, START, STOP, SETTIME and the end of its re-sort, and the SYNC input. -/

namespace Sys2Proof.Machine

/-- At START a filter whose edge select is not OFF begins to work, STABLE at the present level (R119). -/
def Channel.atStart (c : Channel) (level : Bool) : Channel :=
  match c.edge with
  | .off => c
  | .rise | .fall | .both => { c with filter := .stable level }

/-- START's owner (R94, R119). -/
def startCommand (s : State) : State :=
  if s.timebase.running then s.finish .state
  else
    match prescalerArg (s.arg 0) with
    | none => s.finish .range
    | some p =>
      ((s.withTimebase { s.timebase with prescaler := p, running := true, phase := some 0 }).mapChannels
        fun k c => c.atStart (s.inputLevel k)).finish .ok

/-- START, code 0x20 (R94). -/
def execStart (s : State) : Host.Outcome State Fault Refusal :=
  .next (s.writeCmdByte 0x20 startCommand)

/-- The Timebase stops, as by STOP or the first stage of SOFT_RESET; an acceptance taken before has made its trigger arm
(R34, R95, R106, R128). -/
def State.stopRunning (s : State) : State := s.takeArms.stopTimebase

/-- STOP's owner (R95, R119). -/
def stopCommand (s : State) : State :=
  if s.timebase.running then s.stopRunning.finish .ok else s.finish .state

/-- STOP, code 0x21 (R95). -/
def execStop (s : State) : Host.Outcome State Fault Refusal :=
  .next (s.writeCmdByte 0x21 stopCommand)

/-- T and E take new values (R97). -/
def State.loadTime (s : State) (t : Tick) (e : BitVec 16) : State :=
  s.withTimebase { s.timebase with t := t, e := e }

/-- SETTIME's owner (R97 to R99). KEEP_ABSOLUTE leaves its re-sort in flight, T and E at their old values; a fire taken
before STOP has ended by then, since no insertion is asked of the list during the re-sort (R34, log 24). -/
def settimeCommand (s : State) : State :=
  if s.timebase.running then s.finish .state
  else
    match timeModeArg (s.arg 6) with
    | none => s.finish .range
    | some .keepDistance =>
      ((s.shiftStored (s.argTime - s.now)).loadTime s.argTime s.argEpoch).finish .ok
    | some .keepAbsolute => s.endFire.work (.resort s.argTime s.argEpoch)

/-- SETTIME, code 0x22 (R97). -/
def execSettime (s : State) : Host.Outcome State Fault Refusal :=
  .next (s.writeCmdByte 0x22 settimeCommand)

/-- RESORT_COMPLETE: the list takes its new order in the happening in which T and E take their new values (R33,
R99). -/
def execResortComplete (s : State) : Host.Outcome State Fault Refusal :=
  .next (match s.cmd.inHand with
    | some (.resort t e) => ((s.withPlist (s.resorted t)).loadTime t e).finish .ok
    | _ => s)

/-- A marker bit has gone from 0 to 1 between two values of T (R103). -/
def markRises (marker : Option (Fin 32)) (old new : Tick) : Bool :=
  match marker with
  | some b => !old.getLsbD b && new.getLsbD b
  | none => false

/-- An entry that is past by 2^31 as T counts on has become due and stays due (R37, log 7). -/
def State.keepDue (s : State) : State :=
  s.withPlist (s.plist.map fun e =>
    if signedDistance (s.slot e.slot).due s.now = -2147483648 then { e with keptDue := true } else e)

/-- A counting tick (R93, R103). -/
def State.takeTick (s : State) : State :=
  let t := s.now + 1
  let e := if t = 0 then s.timebase.e + 1 else s.timebase.e
  ((s.keepDue).withTimebase { s.timebase with t := t, e := e, phase := some 0 }).postIf t
    (if markRises s.timebase.marker s.now t then some .mark else none)

/-- TICK: T counts while the Timebase is RUNNING (R93). -/
def execTick (s : State) : Host.Outcome State Fault Refusal :=
  .next (if s.timebase.running then s.takeTick else s)

/-- An honoured SYNC edge (R100, R101). -/
def State.takeSync (s : State) : State :=
  let new := s.timebase.syncVal
  let shifted := (s.shiftStored (new - s.now)).shiftFilters (new - s.now)
  (shifted.withTimebase { s.timebase with t := new, phase := some 0 }).post new (.synced s.now)

/-- SYNC_EDGE: a rising edge is honoured while RUNNING with SYNC enable on (R100). -/
def execSyncEdge (s : State) : Host.Outcome State Fault Refusal :=
  .next (if s.timebase.running && s.timebase.syncEnable then s.takeSync else s)

end Sys2Proof.Machine
end

