-- ==== Sys2Proof/Machine/Command.lean ====
section
/-! DEFINITION. The Command Unit's own happenings (09): SOFT_RESET, unknown codes, collisions and completion. -/

namespace Sys2Proof.Machine

/-- A group record takes its reset values (R90). -/
def State.resetGroups (s : State) : State := s.withGroups (Vector.replicate 8 Group.atReset)

/-- Every slot is emptied and the list with it, in one happening (R26, R36). -/
def State.emptySlots (s : State) : State :=
  (s.withSlots (Vector.replicate 64 Slot.cleared)).withPlist []

/-- The completion of a command: RESULT, DONE, IDLE (R144). -/
def State.completeWith (s : State) (r : ResultCode) : State :=
  s.withCmd { s.cmd with inHand := none, result := r, done := true }

/-- The first stage of SOFT_RESET: a RUNNING Timebase stops (R106, R150). -/
def State.resetStop (s : State) : State := if s.timebase.running then s.stopRunning else s

/-- One of the stages of SOFT_RESET after the first, and the stage that follows it; after the completion none is in hand
(R150). -/
def State.resetStage (s : State) : ResetStage → State
  | .endOfFire => s.endFire.work (.softReset .capture)
  | .capture => (s.withCapture { s.capture with fifo := [] }).settleFilters.work (.softReset .slots)
  | .slots => s.emptySlots.work (.softReset .groups)
  | .groups => s.resetGroups.work (.softReset .lines)
  | .lines => (s.mapLines fun _ l => l.softReset).work (.softReset .clock)
  | .clock => (s.withClock s.clock.abandonSwitch).work (.softReset .time)
  | .time => (s.loadTime 0 0).work (.softReset .queue)
  | .queue => (s.withQueue { s.queue with entries := [] }).work (.softReset .completion)
  | .completion => (s.withCmd { s.cmd with readback := Slot.cleared }).completeWith .ok

/-- A SOFT_RESET in hand takes at most `n` stages. -/
def State.runReset : Nat → State → State
  | 0, s => s
  | n + 1, s =>
    match s.cmd.inHand with
    | some (.softReset stage) => runReset n (s.resetStage stage)
    | _ => s

/-- SOFT_RESET's owner: the first stage, and those up to the ninth before which `pauses` lets nothing in (R150, log 5,
log 24). -/
def softResetCommand (s : State) : State :=
  (State.runReset (min s.further 8) (s.resetStop.work (.softReset .endOfFire))).pauseTaken

/-- SOFT_RESET, code 0x3F (R150). -/
def execSoftReset (s : State) : Host.Outcome State Fault Refusal :=
  .next (s.writeCmdByte 0x3F softResetCommand)

/-- A code that names no command is handed to no block and completes with UNKNOWN (R141). -/
def unknownCommand (s : State) : State := s.finish .unknown

/-- The owner's part of the command that a code names (R146). -/
def commandEffect (code : Byte) : State → State :=
  if code = 0x01 then loadCommand
  else if code = 0x02 then armCommand
  else if code = 0x03 then disarmCommand
  else if code = 0x04 then releaseCommand
  else if code = 0x05 then retimeCommand
  else if code = 0x06 then queryCommand
  else if code = 0x10 then suspendGroupCommand
  else if code = 0x11 then resumeGroupCommand
  else if code = 0x12 then disarmGroupCommand
  else if code = 0x20 then startCommand
  else if code = 0x21 then stopCommand
  else if code = 0x22 then settimeCommand
  else if code = 0x28 then switchClockCommand
  else if code = 0x30 then loadPatternCommand
  else if code = 0x31 then clearPatternCommand
  else if code = 0x32 then clearTripCommand
  else if code = 0x33 then lockLinesCommand
  else if code = 0x34 then safeCommand
  else if code = 0x38 then flushCaptureCommand
  else if code = 0x3F then softResetCommand
  else unknownCommand

/-- UNKNOWN_COMMAND: CMD is written with a code. The well-formed codes name no command; the others are the command
they name (R141, log 3). -/
def execUnknownCommand (code : Byte) (s : State) : Host.Outcome State Fault Refusal :=
  .next (s.writeCmdByte code (commandEffect code))

/-- COLLIDE: CMD is written with a code while BUSY, and the code is discarded (R143); a write that finds the unit
IDLE is a taking (log 3). -/
def execCollide (code : Byte) (s : State) : Host.Outcome State Fault Refusal :=
  .next (if s.busy then s.writeAt cmdAddr State.collided else s.writeCmdByte code (commandEffect code))

/-- COMMAND_COMPLETION: the command whose owner has finished with it completes and posts CMD_DONE (R144). A SOFT_RESET
goes on with its stages up to the tenth, the completion, which also clears the readback record and posts none (R150,
log 5). -/
def execCommandCompletion (s : State) : Host.Outcome State Fault Refusal :=
  .next (match s.cmd.inHand with
    | some (.finished r) => (s.completeWith r).post s.now (.cmdDone s.cmd.code r)
    | some (.softReset .completion) => s.resetStage .completion
    | some (.softReset _) => (State.runReset (s.further + 1) s).pauseTaken
    | _ => s)

end Sys2Proof.Machine
end

