-- ==== Sys2Proof/Machine/Ports.lean ====
section
/-! DEFINITION. The register window and the Serial Port (10): frames, byte writes, byte reads, pops, latches,
STATUS, and full reset. -/

namespace Sys2Proof.Machine

/-! ### Frames (R153, R154) -/

/-- FRAME_START: CSN falls. The port enters ADDRESS, but not while RSTN is low (R153, R154). -/
def execFrameStart (s : State) : Host.Outcome State Fault Refusal :=
  .next (if s.pins.csnLow then s
    else
      let fallen := s.withPins { s.pins with csnLow := true }
      if s.pins.rstnLow then fallen
      else fallen.withPort { s.port with frame := .address, sdo := none, nextDueRead := false })

/-- ADDRESS_BYTE: the first byte of a frame completes, its top bit the direction, its lower seven bits the address
(R153). -/
def execAddressByte (v : Byte) (s : State) : Host.Outcome State Fault Refusal :=
  .next (match s.port.frame with
    | .address =>
      s.withPort { s.port with frame := if v.msb then .read else .write, pointer := v.setWidth 7 }
    | .idle | .write | .read => s)

/-- FRAME_END: CSN rises. The port returns to IDLE with SDO at high impedance (R153). -/
def execFrameEnd (s : State) : Host.Outcome State Fault Refusal :=
  .next ((s.withPins { s.pins with csnLow := false }).withPort
    { s.port with frame := .idle, sdo := none, nextDueRead := false })

/-! ### Byte writes (R155, R160) -/

/-- A marker select as stored: bits 8 to 31, anything else OFF (R103). -/
def markerOf (v : Byte) : Option (Fin 32) :=
  if h : 8 ≤ v.toNat ∧ v.toNat < 32 then some ⟨v.toNat, h.2⟩ else none

/-- A watermark as stored: 0 as 1, above 16 as 16 (R123). -/
def watermarkOf (v : Byte) : Nat := max 1 (min v.toNat 16)

/-- A write of CTRL: SYNC enable and IRQ enable (R137, R160). -/
def State.writeCtrl (s : State) (v : Byte) : State :=
  (s.withTimebase { s.timebase with syncEnable := v.getLsbD 0 }).withQueue
    { s.queue with irqEnable := v.getLsbD 1 }

/-- A write of an ARG byte (R140). -/
def State.writeArg (s : State) (k : Nat) (v : Byte) : State :=
  if h : k < 8 then s.withCmd { s.cmd with args := s.cmd.args.set k v h } else s

/-- A write of byte `k` of the staging record (R140, R155). -/
def State.writeStaging (s : State) (k : Nat) (v : Byte) : State :=
  let out := stagingWrite k v s.cmd.staging s.window.hold
  (s.withCmd { s.cmd with staging := out.1 }).withWindow { s.window with hold := out.2 }

/-- Changes the holding bytes (R155). -/
def State.withHold (s : State) (h : Holding) : State := s.withWindow { s.window with hold := h }

/-- A write of byte `k` of SYNCVAL; the highest commits (R155). -/
def State.writeSyncVal (s : State) (k : Nat) (v : Byte) : State :=
  let held := putByte s.window.hold.syncVal k v
  let s' := s.withHold { s.window.hold with syncVal := held }
  if k = 3 then s'.withTimebase { s.timebase with syncVal := held } else s'

/-- A write of byte `k` of POSTMASK; the highest commits; bits 13 to 15 are not held (R131, R155, R160). -/
def State.writePostMask (s : State) (k : Nat) (v : Byte) : State :=
  let held := putByte s.window.hold.postMask k v
  let s' := s.withHold { s.window.hold with postMask := held }
  if k = 1 then s'.withQueue { s.queue with postMask := held.setWidth 13 } else s'

/-- The effect of a byte written at an address of the register map, on everything but the port; a write of a
read-only field, of a port or of 0x7F is ignored (R153, R157, R160). -/
def State.writeByte (s : State) (a : Nat) (v : Byte) : State :=
  if a = 0x04 then
    s.withWindow { s.window with lineSel := v.extractLsb' 0 4, capSel := v.extractLsb' 4 2 }
  else if a = 0x05 then s.withWindow { s.window with groupSel := v.extractLsb' 0 3 }
  else if 0x06 ≤ a ∧ a ≤ 0x0D then s.writeArg (a - 0x06) v
  else if a = 0x0E then s.writeCommand v (commandEffect v)
  else if 0x0F ≤ a ∧ a ≤ 0x20 then s.writeStaging (a - 0x0F) v
  else if 0x41 ≤ a ∧ a ≤ 0x42 then
    s.withHold { s.window.hold with lineConfig := putByte s.window.hold.lineConfig (a - 0x41) v }
  else if a = 0x43 then s.writeLineConfigTop v
  else if 0x4E ≤ a ∧ a ≤ 0x52 then
    s.withHold { s.window.hold with capConfig := putByte s.window.hold.capConfig (a - 0x4E) v }
  else if a = 0x53 then s.writeCapConfigTop v
  else if 0x5F ≤ a ∧ a ≤ 0x62 then s.writeSyncVal (a - 0x5F) v
  else if a = 0x63 then s.withTimebase { s.timebase with marker := markerOf v }
  else if a = 0x64 then s.writeCtrl v
  else if 0x65 ≤ a ∧ a ≤ 0x66 then s.writePostMask (a - 0x65) v
  else if a = 0x67 then s.withCapture { s.capture with watermark := watermarkOf v }
  else s

/-- REGISTER_WRITE: a data byte completes at the pointer (R153, R155). -/
def execRegisterWrite (v : Byte) (s : State) : Host.Outcome State Fault Refusal :=
  .next (if s.port.frame = .write then (s.writeByte s.port.pointer.toNat v).advance else s)

/-- IRQ_ENABLE_WRITE: the byte of CTRL is written (R137). -/
def execIrqEnableWrite (v : Byte) (s : State) : Host.Outcome State Fault Refusal :=
  .next (s.writeAt 0x64 fun s => s.writeCtrl v)

/-! ### Byte reads (R156 to R158, R160) -/

/-- A pop of the Notification Queue: the head, or the empty entry, goes into the notification latch (R135). -/
def State.popNotification (s : State) : State :=
  match s.queue.entries with
  | [] => s.withQueue { s.queue with latch := none }
  | n :: rest => s.withQueue { s.queue with entries := rest, latch := some n }

/-- The group that GROUPSEL names (R159). -/
def State.selectedGroup (s : State) : GroupId := ⟨s.window.groupSel.toNat, s.window.groupSel.isLt⟩

/-- The read of a lowest byte latches its field; a read of a port's first byte pops (R156, R157). -/
def State.latchAt (s : State) (a : Nat) : State :=
  if a = 0x44 then
    s.withWindow { s.window with lineStatLatch := lineStatImage (s.line s.selectedLine) s.lineUnit.locked }
  else if a = 0x4E then
    s.withWindow { s.window with
      capCfgLatch := capCfgImage (s.channel s.selectedChannel) (s.inputLevel s.selectedChannel) }
  else if a = 0x54 then
    s.withWindow { s.window with groupStatLatch := groupStatImage s s.selectedGroup }
  else if a = 0x59 then s.withWindow { s.window with timeLatch := timeImage s.timebase }
  else if a = 0x68 then
    (s.withWindow { s.window with nextDueLatch := nextDueImage s, pendCountLatch := pendCount s }).withPort
      { s.port with nextDueRead := true }
  else if a = 0x6D then s.popNotification
  else if a = 0x79 then s.popCapture
  else s

/-- The value that a byte of the register window reads, its latch or pop taken (R155, R156, R160). -/
def State.byteAt (s : State) (a : Nat) : Byte :=
  if a = 0x00 then 0x64
  else if a = 0x01 then 0x01
  else if a = 0x02 then statusByte s
  else if a = 0x03 then resultByte s.cmd.result
  else if a = 0x04 then 0#2 ++ s.window.capSel ++ s.window.lineSel
  else if a = 0x05 then 0#5 ++ s.window.groupSel
  else if a ≤ 0x0D then s.cmd.args.toList.getD (a - 0x06) 0
  else if a = 0x0E then s.cmd.code
  else if a ≤ 0x20 then stagingByte s.cmd.staging (a - 0x0F)
  else if a ≤ 0x40 then readbackByte s.cmd.readback (a - 0x21)
  else if a ≤ 0x43 then lineConfigByte (s.line s.selectedLine).config (a - 0x41)
  else if a ≤ 0x4D then s.window.lineStatLatch.toList.getD (a - 0x44) 0
  else if a ≤ 0x53 then s.window.capCfgLatch.toList.getD (a - 0x4E) 0
  else if a ≤ 0x58 then s.window.groupStatLatch.toList.getD (a - 0x54) 0
  else if a ≤ 0x5E then s.window.timeLatch.toList.getD (a - 0x59) 0
  else if a ≤ 0x62 then byteOf s.timebase.syncVal (a - 0x5F)
  else if a = 0x63 then markerByte s.timebase.marker
  else if a = 0x64 then ctrlByte s
  else if a ≤ 0x66 then byteOf (s.queue.postMask.setWidth 16) (a - 0x65)
  else if a = 0x67 then BitVec.ofNat 8 s.capture.watermark
  else if a ≤ 0x6B then s.window.nextDueLatch.toList.getD (a - 0x68) 0
  else if a = 0x6C then (if s.port.nextDueRead then s.window.pendCountLatch else pendCount s)
  else if a ≤ 0x78 then (notificationImage s.queue.latch).toList.getD (a - 0x6D) 0
  else if a ≤ 0x7E then (captureImage s.capture.latch).toList.getD (a - 0x79) 0
  else 0

/-- The read of STATUS lowers COLLIDE and LOCKVIOL after the byte is read (R158). -/
def State.lowerSticky (s : State) : State :=
  (s.withCmd { s.cmd with collide := false }).withLineUnit { s.lineUnit with lockViol := false }

/-- A data byte is read at the pointer: its latch or pop is taken, SDO takes the byte, STATUS lowers its sticky
flags, and the pointer moves on (R153, R156 to R158). -/
def State.readByte (s : State) : State :=
  let a := s.port.pointer.toNat
  let taken := s.latchAt a
  let shown := taken.withPort { taken.port with sdo := some (taken.byteAt a) }
  (if a = 0x02 then shown.lowerSticky else shown).advance

/-- A byte at `a` is read in READ (R153); no byte is read there in any other state of the port (log 2). -/
def State.readAt (s : State) (a : Addr) : State :=
  if s.port.frame = .read ∧ s.port.pointer = a then s.readByte else s

/-- CAPTURE_POP: the byte at 0x79 is read (R125). -/
def execCapturePop (s : State) : Host.Outcome State Fault Refusal := .next (s.readAt 0x79)

/-- NOTIFICATION_POP: the byte at 0x6D is read (R135). -/
def execNotificationPop (s : State) : Host.Outcome State Fault Refusal := .next (s.readAt 0x6D)

/-- STATUS_READ: the byte at 0x02 is read (R158). -/
def execStatusRead (s : State) : Host.Outcome State Fault Refusal := .next (s.readAt 0x02)

/-- LATCH_READ: the byte at the pointer is read; the lowest byte of a latched field latches it (R156, log 3). -/
def execLatchRead (s : State) : Host.Outcome State Fault Refusal :=
  .next (if s.port.frame = .read then s.readByte else s)

/-! ### Full reset (R2, R154) -/

/-- FULL_RESET: everything in progress is abandoned and every record takes its full-reset value; the input pins
stay as the board drives them, RSTN being low (R2, R154). -/
def execFullReset (s : State) : Host.Outcome State Fault Refusal :=
  .next (State.fullResetImage { s.pins with rstnLow := true } s.draws s.pauses s.pending)

/-- END_OF_FULL_RESET: RSTN rises; each filter is STABLE at the level its input then has (R127, R154). -/
def execEndOfFullReset (s : State) : Host.Outcome State Fault Refusal :=
  .next (if s.pins.rstnLow then
      (s.withPins { s.pins with rstnLow := false }).settleFilters
    else s)

end Sys2Proof.Machine
end

