-- ==== Sys2Proof/Machine/Dispatch.lean ====
section
/-! DEFINITION. What each command does: one arm per row of spec/opcode_table.json. -/

namespace Sys2Proof.Machine

def exec (i : Instr) (s : State) : Host.Outcome State Fault Refusal :=
  match i with
  | .load => Sys2Proof.Machine.execLoad s
  | .arm => Sys2Proof.Machine.execArm s
  | .disarm => Sys2Proof.Machine.execDisarm s
  | .release => Sys2Proof.Machine.execRelease s
  | .retime => Sys2Proof.Machine.execRetime s
  | .query => Sys2Proof.Machine.execQuery s
  | .suspendGroup => Sys2Proof.Machine.execSuspendGroup s
  | .suspendGroupVisit => Sys2Proof.Machine.execSuspendGroupVisit s
  | .resumeGroup => Sys2Proof.Machine.execResumeGroup s
  | .resumeGroupVisit => Sys2Proof.Machine.execResumeGroupVisit s
  | .disarmGroup => Sys2Proof.Machine.execDisarmGroup s
  | .disarmGroupVisit => Sys2Proof.Machine.execDisarmGroupVisit s
  | .start => Sys2Proof.Machine.execStart s
  | .stop => Sys2Proof.Machine.execStop s
  | .settime => Sys2Proof.Machine.execSettime s
  | .resortComplete => Sys2Proof.Machine.execResortComplete s
  | .switchClock => Sys2Proof.Machine.execSwitchClock s
  | .loadPattern => Sys2Proof.Machine.execLoadPattern s
  | .clearPattern => Sys2Proof.Machine.execClearPattern s
  | .clearTrip => Sys2Proof.Machine.execClearTrip s
  | .lockLines => Sys2Proof.Machine.execLockLines s
  | .safe => Sys2Proof.Machine.execSafe s
  | .safeSlotVisit => Sys2Proof.Machine.execSafeSlotVisit s
  | .safeLineVisit => Sys2Proof.Machine.execSafeLineVisit s
  | .flushCapture => Sys2Proof.Machine.execFlushCapture s
  | .softReset => Sys2Proof.Machine.execSoftReset s
  | .unknownCommand code => Sys2Proof.Machine.execUnknownCommand code s
  | .collide code => Sys2Proof.Machine.execCollide code s
  | .commandCompletion => Sys2Proof.Machine.execCommandCompletion s
  | .fire => Sys2Proof.Machine.execFire s
  | .releaseOfAPulse l => Sys2Proof.Machine.execReleaseOfAPulse l s
  | .guardTick => Sys2Proof.Machine.execGuardTick s
  | .holdnAssertion => Sys2Proof.Machine.execHoldnAssertion s
  | .holdnRelease => Sys2Proof.Machine.execHoldnRelease s
  | .lineConfigurationCommit v => Sys2Proof.Machine.execLineConfigurationCommit v s
  | .tick => Sys2Proof.Machine.execTick s
  | .syncEdge => Sys2Proof.Machine.execSyncEdge s
  | .refclkEdge => Sys2Proof.Machine.execRefclkEdge s
  | .gapTooLong => Sys2Proof.Machine.execGapTooLong s
  | .switchTimeout => Sys2Proof.Machine.execSwitchTimeout s
  | .captureInputChange k => Sys2Proof.Machine.execCaptureInputChange k s
  | .acceptance k => Sys2Proof.Machine.execAcceptance k s
  | .channelConfigurationCommit v => Sys2Proof.Machine.execChannelConfigurationCommit v s
  | .capturePop => Sys2Proof.Machine.execCapturePop s
  | .notificationPop => Sys2Proof.Machine.execNotificationPop s
  | .statusRead => Sys2Proof.Machine.execStatusRead s
  | .latchRead => Sys2Proof.Machine.execLatchRead s
  | .irqEnableWrite v => Sys2Proof.Machine.execIrqEnableWrite v s
  | .registerWrite v => Sys2Proof.Machine.execRegisterWrite v s
  | .frameStart => Sys2Proof.Machine.execFrameStart s
  | .addressByte v => Sys2Proof.Machine.execAddressByte v s
  | .frameEnd => Sys2Proof.Machine.execFrameEnd s
  | .fullReset => Sys2Proof.Machine.execFullReset s
  | .endOfFullReset => Sys2Proof.Machine.execEndOfFullReset s

end Sys2Proof.Machine
end

