-- ==== Sys2Proof/Safety.lean ====
section
/-! DEFINITION. What the statements say in: the conditions under which the host's bytes reach a record, and the
invariants of each block that the manual states of every state. -/

namespace Sys2Proof.Machine

/-! ### Where a byte reaches the part (R141, R153) -/

/-- A data byte of a write frame completes at address `a` (R153). -/
def WritesAt (s : State) (a : Addr) : Prop := s.port.frame = .write ∧ s.port.pointer = a

/-- A data byte of a read frame is read at address `a` (R153). -/
def ReadsAt (s : State) (a : Addr) : Prop := s.port.frame = .read ∧ s.port.pointer = a

/-- A byte completes at CMD while the Command Unit is IDLE: it is the taking of a command (R141). -/
def TakesCommand (s : State) : Prop := WritesAt s cmdAddr ∧ s.cmd.inHand = none

/-- The Command Unit right after the taking of `code`, with the work `w` in hand (R141). -/
def cmdTaken (s : State) (code : Byte) (w : Work) : CommandUnit :=
  { s.cmd with inHand := some w, code := code, done := false, captured := ⟨s.cmd.args, s.cmd.staging⟩ }

/-- The port after a byte: the pointer has moved on by one, wrapping from 127 to 0 (R153). -/
def portPast (s : State) : Port := { s.port with pointer := s.port.pointer + 1 }

/-- `c` is a write of `code` to CMD that finds the Command Unit IDLE: by the row the code names, or by one of the rows
that carry the byte written (R141). -/
def GivesCommand (s : State) (c : Instr) (code : Byte) : Prop :=
  TakesCommand s
    ∧ (c.code = some code ∨ c = .unknownCommand code ∨ c = .collide code ∨ c = .registerWrite code)

/-- An ARG byte as the taking finds it (R141). -/
def argNow (s : State) (k : Fin 8) : Byte := s.cmd.args[k]

/-- ARG1 to ARG4 as the taking finds them, least significant byte first (R146). -/
def argWordNow (s : State) : BitVec 32 := argNow s 4 ++ argNow s 3 ++ argNow s 2 ++ argNow s 1

/-- ARG0 to ARG3 as the taking finds them, least significant byte first (R146). -/
def argTimeNow (s : State) : Tick := argNow s 3 ++ argNow s 2 ++ argNow s 1 ++ argNow s 0

/-- What a command leaves that its owner answers at once with `r`, having changed nothing: the unit is BUSY with the
answer, and the port has moved on (R10, R141, R153). -/
def answered (s : State) (code : Byte) (r : ResultCode) : State :=
  { s with cmd := cmdTaken s code (.finished r), port := portPast s }

/-! ### Holding bytes (R155) -/

/-- The holding bytes after `v` is written at address `a`: the byte of the multi-byte field that stands there takes `v`,
every other keeps its content (R155, R160). -/
def heldAfter (h : Holding) (a : Nat) (v : Byte) : Holding :=
  if 0x11 ≤ a ∧ a ≤ 0x14 then { h with time := putByte h.time (a - 0x11) v }
  else if 0x15 ≤ a ∧ a ≤ 0x17 then { h with period := putByte h.period (a - 0x15) v }
  else if 0x18 ≤ a ∧ a ≤ 0x19 then { h with repeats := putByte h.repeats (a - 0x18) v }
  else if 0x1A ≤ a ∧ a ≤ 0x1B then { h with width := putByte h.width (a - 0x1A) v }
  else if 0x1E ≤ a ∧ a ≤ 0x20 then { h with chainOffset := putByte h.chainOffset (a - 0x1E) v }
  else if 0x41 ≤ a ∧ a ≤ 0x43 then { h with lineConfig := putByte h.lineConfig (a - 0x41) v }
  else if 0x4E ≤ a ∧ a ≤ 0x53 then { h with capConfig := putByte h.capConfig (a - 0x4E) v }
  else if 0x5F ≤ a ∧ a ≤ 0x62 then { h with syncVal := putByte h.syncVal (a - 0x5F) v }
  else if 0x65 ≤ a ∧ a ≤ 0x66 then { h with postMask := putByte h.postMask (a - 0x65) v }
  else h

/-! ### Posts (R131, R133) -/

/-- The queue after a post with stamp `n.stamp`, taken when T is `now` (R131, R133). -/
def queueAfter (now : Tick) (q : NotifyQueue) (n : Notification) : NotifyQueue :=
  if q.postMask.getLsbD n.body.kindCode then { q with entries := appendPost now n q.entries } else q

/-- The queue after several posts in their order, all taken while T is `now`. -/
def queueAfterAll (now : Tick) (q : NotifyQueue) (ns : List Notification) : NotifyQueue :=
  ns.foldl (queueAfter now) q

/-! ### Descriptors and arming (R12, R16) -/

/-- The checks of R12 on a captured staging record, in the encodings of R161. -/
def PassesR12 (r : Staging) : Prop :=
  r.action.toNat ≤ 5
    ∧ (r.line.toNat ≤ 15 ∨ r.line = 0x1F)
    ∧ (r.action = 5 ↔ r.line = 0x1F)
    ∧ r.width ≠ 0
    ∧ (r.action = 3 → r.period ≠ 0 → r.width.toNat < r.period.toNat)
    ∧ r.notify.toNat ≤ 2
    ∧ (r.chain.toNat ≤ 63 ∨ r.chain = 0x7F)
    ∧ (r.chain ≠ 0x7F → r.chainOffset ≠ 0)

/-- The record that LOAD stores: the captured one, its chain offset zero where no chain is given (R11). -/
def storedFrom (r : Staging) : Staging := if r.chain = 0x7F then { r with chainOffset := 0 } else r

/-- The record of a slot after arm-time initialisation, its due time written (R16). -/
def freshRun (r : Slot) (due : Tick) : Slot :=
  { r with
    due := due, occurrences := 0, skipTotal := 0,
    repeatsLeft := if r.desc.period ≠ 0 ∧ r.desc.repeats ≠ 0 then r.desc.repeats else 0 }

/-- The placement of a slot record by the suspended flag of its group: PENDING, or SUSPENDED with the distance of its
due time from `ref`, or 0 if that is negative (R16, R47, R48, R124). -/
def placedRecord (r : Slot) (flag : Bool) (ref : Tick) : Slot :=
  if flag then { r with state := .suspended, remaining := BitVec.ofNat 32 (signedDistance r.due ref).toNat }
  else { r with state := .pending }

/-- The list after the placement of a slot with the given due time: a new entry where the flag is lowered (R16, R29). -/
def placedList (s : State) (list : List Entry) (i : SlotId) (due : Tick) (flag : Bool) : List Entry :=
  if flag then list else insertEntry (s.entryDist s.now) (signedDistance due s.now) ⟨i, false⟩ list

/-- The suspended flag of the group a slot belongs to (R79). -/
def flagOf (s : State) (i : SlotId) : Bool := (s.group (s.slot i).desc.group).suspended

/-! ### Happenings of several stages (R38, R51, R122, R132, R150) -/

/-- The world lets nothing into the coming happening of several stages, which has `k` stages after its first. -/
def RunsWhole (s : State) (k : Nat) : Prop := ∀ n, s.pauses.head? = some n → k ≤ n

/-- No fire in progress has claimed slot `i` (R38). -/
def NotFired (s : State) (i : SlotId) : Prop := s.firedSlot ≠ some i

/-- No channel has a trigger arm still to ask for (R122). -/
def NoArms (s : State) : Prop := ∀ k : ChannelId, (s.channel k).arm = none

/-- `u` is `s` after the fire in progress has run to its end, with nothing let in (R9, R38). -/
def FireEnded (s u : State) : Prop :=
  s.dispatcher ≠ .idle ∧ ∃ v : State, exec .fire { s with pauses := [] } = .next v ∧ u = { v with pauses := s.pauses }

/-! ### Fires (R37, R39, R44) -/

/-- The Dispatcher is IDLE and `e` is the head, due, with `rest` behind it (R37). -/
def DueHead (s : State) (e : Entry) (rest : List Entry) : Prop :=
  s.plist = e :: rest ∧ s.dispatcher = .idle ∧ s.timebase.running = true ∧ s.entryDist s.now e ≤ 0

/-- The occurrence of `e` is dropped: its slot is DROP and later than its tolerance (R40). -/
def Dropped (s : State) (e : Entry) : Prop :=
  (s.slot e.slot).desc.late = .drop ∧ ((s.slot e.slot).desc.tolerance.toNat : Int) < -(s.entryDist s.now e)

/-- The due time of the occurrence `k` periods after the next one (R43, R44). -/
def laterDue (r : Slot) (k : Nat) : Tick := r.due + BitVec.ofNat 32 (k + 1) * r.desc.period.setWidth 32

/-- The repeats a counted slot has left after the accounting of this fire (R42). -/
def leftAfter (r : Slot) : Nat := r.repeatsLeft.toNat - 1

/-- `n` is the skip count of a fire of a periodic slot at T = `now`: none under FIRE; under DROP each of the `n`
occurrences passed over is past by more than the tolerance, and the next is not, or a counted slot has run out of
repeats (R44, R45). -/
def SkipCount (r : Slot) (now : Tick) (n : Nat) : Prop :=
  (r.desc.late = .fire → n = 0)
    ∧ (r.desc.late = .drop →
        (∀ k, k < n → (r.desc.tolerance.toNat : Int) < pastBy (laterDue r k) now)
          ∧ (r.desc.repeats ≠ 0 → n ≤ leftAfter r)
          ∧ (pastBy (laterDue r n) now ≤ r.desc.tolerance.toNat ∨ (r.desc.repeats ≠ 0 ∧ n = leftAfter r)))

/-- A fire that skips `n` occurrences completes the slot: a one-shot, or a counted slot that has spent its repeats
(R43, R46). -/
def Completes (r : Slot) (n : Nat) : Prop :=
  r.desc.period = 0 ∨ (r.desc.repeats ≠ 0 ∧ n = leftAfter r)

/-- The record that stage five leaves where it completes the slot (R42, R46). -/
def completedRecord (r : Slot) (n : Nat) : Slot :=
  if r.desc.autoRelease then Slot.cleared
  else { r with
    state := .loaded, repeatsLeft := 0, occurrences := satAdd16 r.occurrences 1,
    skipTotal := satAdd16 r.skipTotal n }

/-- The record that stage five re-arms, but for its placement (R42 to R44, R47). -/
def rearmedRecord (r : Slot) (n : Nat) : Slot :=
  { r with
    due := laterDue r n, occurrences := satAdd16 r.occurrences 1, skipTotal := satAdd16 r.skipTotal n,
    repeatsLeft := if r.desc.repeats ≠ 0 then BitVec.ofNat 16 (leftAfter r - n) else r.repeatsLeft }

/-- At the chain stage the target `j` is LOADED: another slot that is, or the fired slot itself where the fire has
completed it without auto-release (R48, R49). -/
def TargetLoaded (s : State) (e : Entry) (j : SlotId) (n : Nat) : Prop :=
  (j ≠ e.slot ∧ (s.slot j).state = .loaded)
    ∨ (j = e.slot ∧ Completes (s.slot e.slot) n ∧ (s.slot e.slot).desc.autoRelease = false)

/-- `n` is what the fire of `e` skips: the skip count of a periodic slot, none for a one-shot (R43, R44). -/
def Skips (s : State) (e : Entry) (n : Nat) : Prop :=
  ((s.slot e.slot).desc.period = 0 → n = 0)
    ∧ ((s.slot e.slot).desc.period ≠ 0 → SkipCount (s.slot e.slot) s.now n)

/-! ### Accepted edges (R122 to R124) -/

/-- The accepted edge to `level` matches the edge select (R122). -/
def Matches (c : Channel) (level : Bool) : Prop :=
  c.edge = .both ∨ (c.edge = .rise ∧ level = true) ∨ (c.edge = .fall ∧ level = false)

/-- The record of an accepted edge (R122). -/
def edgeRecord (k : ChannelId) (level : Bool) (stamp : Tick) : CaptureRecord :=
  ⟨k, if level then .rise else .fall, stamp⟩

/-- What the FIFO posts when a record is offered to it (R123). -/
def offerPosts (s : State) (r : CaptureRecord) : List Notification :=
  if s.capture.fifo.length < 16 then
    if s.capture.fifo.length + 1 = s.capture.watermark then
      [⟨s.now, .captureLevel (s.capture.fifo.length + 1)⟩]
    else []
  else [⟨r.stamp, .captureLost r.channel⟩]

/-- What a trigger arm posts when it misses (R124). -/
def triggerPosts (s : State) (k : ChannelId) (i : SlotId) : List Notification :=
  if (s.slot i).state = .loaded then [] else [⟨s.now, .triggerMiss i k⟩]

/-- The Slot Table and the Pending List of `t` are those of `s` after a trigger arm of slot `i` with the given due time: a
LOADED slot is armed, any other is left as it is (R124). -/
def TriggerArmed (s t : State) (i : SlotId) (due : Tick) : Prop :=
  ((s.slot i).state = .loaded →
      t.slots = s.slots.set i (placedRecord (freshRun (s.slot i) due) (flagOf s i) s.now)
        ∧ t.plist = placedList s s.plist i due (flagOf s i))
    ∧ ((s.slot i).state ≠ .loaded → t.slots = s.slots ∧ t.plist = s.plist)

/-- `t` is `s` after an accepted edge of channel `k` to `level` with the given stamp has been handled: the filter is
STABLE there; a matching edge is offered to the FIFO and then asks for its trigger arm, which is the one thing that may
reach the Slot Table and the Pending List. Where the world lets other happenings in between, the trigger arm is left for
the channel to ask for (R122 to R124). -/
def EdgeHandled (s t : State) (k : ChannelId) (level : Bool) (stamp : Tick) : Prop :=
  t = { s with capture := t.capture, queue := t.queue, slots := t.slots, plist := t.plist, pauses := t.pauses }
    ∧ t.capture = { s.capture with channels := t.capture.channels, fifo := t.capture.fifo }
    ∧ t.channel k = { s.channel k with filter := .stable level, arm := (t.channel k).arm }
    ∧ (∀ j : ChannelId, j ≠ k → t.channel j = s.channel j)
    ∧ (¬ Matches (s.channel k) level →
        t.capture.fifo = s.capture.fifo ∧ t.queue = s.queue ∧ t.slots = s.slots ∧ t.plist = s.plist
          ∧ t.pauses = s.pauses ∧ (t.channel k).arm = none)
    ∧ (Matches (s.channel k) level →
        t.capture.fifo =
            (if s.capture.fifo.length < 16 then s.capture.fifo ++ [edgeRecord k level stamp] else s.capture.fifo)
          ∧ ((s.channel k).trigger = none →
              t.queue = queueAfterAll s.now s.queue (offerPosts s (edgeRecord k level stamp))
                ∧ t.slots = s.slots ∧ t.plist = s.plist ∧ t.pauses = s.pauses ∧ (t.channel k).arm = none)
          ∧ ∀ (i : SlotId) (due : Tick), (s.channel k).trigger = some i →
              due = stamp + (s.channel k).offset.setWidth 32 →
              t.pauses = s.pauses.tail
                ∧ (s.pauses.head? = some 0 →
                    t.queue = queueAfterAll s.now s.queue (offerPosts s (edgeRecord k level stamp))
                      ∧ t.slots = s.slots ∧ t.plist = s.plist ∧ (t.channel k).arm = some ⟨i, due⟩)
                ∧ (s.pauses.head? ≠ some 0 → NotFired s i →
                    t.queue =
                        queueAfterAll s.now s.queue
                          (offerPosts s (edgeRecord k level stamp) ++ triggerPosts s k i)
                      ∧ TriggerArmed s t i due ∧ (t.channel k).arm = none))

/-- No slot that a fire in progress has claimed is the trigger slot of channel `k`, unless the world lets other happenings
in before the trigger arm (R9, R38). -/
def TriggerFree (s : State) (k : ChannelId) : Prop :=
  ∀ i : SlotId, (s.channel k).trigger = some i → s.pauses.head? ≠ some 0 → NotFired s i

/-! ### Slot Table and Pending List (R6, R8, R12, R27, R28) -/

/-- The slot being fired whose stage five is still to come (R27). -/
def State.unplaced (s : State) : Option SlotId :=
  match s.dispatcher with
  | .firing c .apply => some c.slot
  | .firing c (.place _) => some c.slot
  | .firing _ (.chain _ _ _) | .firing _ (.notify _ _ _ _) | .firing _ (.miss _) | .idle => none

/-- A slot has an entry in the Pending List exactly when its state is PENDING, but for the slot being fired, which is
PENDING without an entry until stage five; no slot has more than one entry (R27). -/
def ListMatchesSlots (s : State) : Prop :=
  (s.plist.map Entry.slot).Nodup
    ∧ ∀ i : SlotId,
      if s.unplaced = some i then (s.slot i).state = .pending ∧ s.listed i = false
      else (s.listed i = true ↔ (s.slot i).state = .pending)

/-- From head to tail the signed distance of due time from T never decreases, an entry kept due by R37 counting as
−2^31 (R28). -/
def ListInOrder (s : State) : Prop :=
  s.plist.Pairwise fun a b => s.entryDist s.now a ≤ s.entryDist s.now b

/-- A descriptor that LOAD has accepted (R12), its chain offset zero without a chain (R3). -/
def DescriptorSound (d : Descriptor) : Prop :=
  lineAgrees d.action d.line = true ∧ d.width ≠ 0 ∧ pulseFits d.action d.period d.width = true
    ∧ (d.chain = none ↔ d.chainOffset = 0)

/-- A slot is armed when it is PENDING or SUSPENDED (R7). -/
def Slot.armed (r : Slot) : Prop := r.state = .pending ∨ r.state = .suspended

/-- The bounds of a slot record: an EMPTY slot is cleared (R8), any other holds an accepted descriptor (R7, R12); an
armed counted slot has 1 to its configured repeats left, an armed slot of another kind 0; a SUSPENDED slot's
remaining time lies below 2^31 (R6). -/
def SlotSound (r : Slot) : Prop :=
  (r.state = .empty → r = Slot.cleared)
    ∧ (r.state ≠ .empty → DescriptorSound r.desc)
    ∧ (r.armed → r.desc.counted = true → r.repeatsLeft ≠ 0 ∧ r.repeatsLeft.toNat ≤ r.desc.repeats.toNat)
    ∧ (r.armed → r.desc.counted = false → r.repeatsLeft = 0)
    ∧ (r.state = .suspended → r.remaining.toNat < 2 ^ 31)

/-- Every slot record is sound. -/
def SlotsSound (s : State) : Prop := ∀ i : SlotId, SlotSound (s.slot i)

/-! ### Groups (R81, R83) -/

/-- No slot of a suspended group is PENDING but one that the SUSPEND_GROUP walk of that group has still to visit
(R81); no slot of another group is SUSPENDED but one that the RESUME_GROUP walk has still to visit (R83). -/
def SuspensionSound (s : State) : Prop :=
  (∀ i : SlotId, (s.slot i).state = .pending → (s.group (s.slot i).desc.group).suspended = true →
      ∃ n : SlotId, s.cmd.inHand = some (.suspendWalk (s.slot i).desc.group n) ∧ n ≤ i)
    ∧ (∀ i : SlotId, (s.slot i).state = .suspended → (s.group (s.slot i).desc.group).suspended = false →
      ∃ n : SlotId, s.cmd.inHand = some (.resumeWalk (s.slot i).desc.group n) ∧ n ≤ i)
    ∧ (∀ g n, s.cmd.inHand = some (.suspendWalk g n) → (s.group g).suspended = true)
    ∧ (∀ g n, s.cmd.inHand = some (.resumeWalk g n) → (s.group g).suspended = false)

/-! ### Lines (R55, R57, R62, R65, R69, R72) -/

/-- What the Line Unit keeps of every line, HOLDN being at the given level. -/
def LineSound (l : Line) (holdnLow : Bool) : Prop :=
  (l.config.enabled = true ↔ l.mode ≠ .off)
    ∧ (l.mode = .off → l.level = .inactive ∧ l.driven = false)
    ∧ (l.mode = .tripped → l.level = .inactive ∧ l.driven = true)
    ∧ (∀ h, l.mode = .forced h → l.level = l.config.safe.level ∧ l.driven = l.config.safe.driven)
    ∧ (l.pulse.isSome = true → l.mode = .normal ∧ l.driven = true ∧ l.level = .active)
    ∧ (l.driven = false → l.level = .inactive)
    ∧ (l.guarded = false → l.guardCount = 0)
    ∧ (l.guarded = true → l.config.guardLimit ≠ 0 → l.guardCount.toNat < l.config.guardLimit.toNat)
    ∧ (l.next.isSome = true → l.current.count ≠ 0)
    ∧ l.current.count ≤ 32
    ∧ (∀ p, l.next = some p → 1 ≤ p.count ∧ p.count ≤ 32)
    ∧ (holdnLow = true → l.mode ≠ .normal ∧ l.mode ≠ .tripped)
    ∧ (holdnLow = false → ∀ h, l.mode ≠ .forced h)

/-- Every line is sound. -/
def LinesSound (s : State) : Prop := ∀ l : LineId, LineSound (s.line l) s.pins.holdnLow

/-! ### Timebase, Dispatcher, Clock Unit (R33, R53, R91, R108, R113) -/

/-- A prescaler phase is held exactly while RUNNING, a marker selects one of the bits 8 to 31, and the Timebase is
STOPPED while a re-sort is in flight and while SOFT_RESET is (R33, R91, R97, R106). -/
def TimebaseSound (s : State) : Prop :=
  (s.timebase.phase.isSome = s.timebase.running)
    ∧ (∀ b, s.timebase.marker = some b → 8 ≤ b.val)
    ∧ (∀ t e, s.cmd.inHand = some (.resort t e) → s.timebase.running = false)
    ∧ (∀ stage, s.cmd.inHand = some (.softReset stage) → s.timebase.running = false)

/-- SOFT_RESET has emptied the Slot Table: its fourth stage is behind it (R150). -/
def ResetStage.pastSlots : ResetStage → Bool
  | .endOfFire | .capture | .slots => false
  | .groups | .lines | .clock | .time | .queue | .completion => true

/-- The descriptor copy of a fire is the descriptor of its slot until stage five (R38); no fire is in progress during a
re-sort (R34), nor in SOFT_RESET after its second stage; the slots are EMPTY in SOFT_RESET after its fourth (R150). -/
def FireSound (s : State) : Prop :=
  (∀ c stage, s.dispatcher = .firing c stage → s.unplaced = some c.slot → (s.slot c.slot).desc = c.desc)
    ∧ (∀ t e, s.cmd.inHand = some (.resort t e) → s.dispatcher = .idle)
    ∧ (∀ stage, s.cmd.inHand = some (.softReset stage) → stage ≠ .endOfFire → s.dispatcher = .idle)
    ∧ (∀ stage, s.cmd.inHand = some (.softReset stage) → stage.pastSlots = true →
        ∀ i : SlotId, (s.slot i).state = .empty)

/-- The monitor's state is fixed by the source and the switch state (R108); while DEGRADED is raised the source is
INT (R113); a gap is measured exactly while the monitor is not IDLE; a count stays below 64 (R107). -/
def ClockSound (c : Clock) : Prop :=
  (c.source = .int → c.switching = .none → c.monitor = .idle)
    ∧ (c.source = .int → c.switching.isPending = true → ∃ n, n < 64 ∧ c.monitor = .confirming n)
    ∧ (c.source = .ext → c.switching = .none ∧ c.monitor = .watching)
    ∧ (c.degraded = true → c.source = .int)
    ∧ (c.gap = none ↔ c.monitor = .idle)

/-! ### Capture Unit (R117, R118, R123, R125) -/

/-- The filter of a channel whose input is at `level`: it is STABLE while it does not work; STABLE is always at the
input's level; QUALIFYING is away from it, with an acceptance time F after the candidate stamp (R117); no trigger arm is
still to come while the Timebase is STOPPED (R34). -/
def ChannelSound (c : Channel) (level running : Bool) : Prop :=
  ((running = false ∨ c.edge = .off) → c.filter = .stable level)
    ∧ (∀ l, c.filter = .stable l → l = level)
    ∧ (∀ l stamp accept, c.filter = .qualifying l stamp accept →
        l = !level ∧ accept = stamp + c.filterLength.setWidth 32)
    ∧ (running = false → c.arm = none)

/-- Every channel is sound. -/
def ChannelsSound (s : State) : Prop :=
  ∀ k : ChannelId, ChannelSound (s.channel k) (s.inputLevel k) s.timebase.running

/-- The capture FIFO holds at most 16 records, the watermark is 1 to 16, and the latch counts 0 to 15 left (R123,
R125). -/
def FifoSound (s : State) : Prop :=
  s.capture.fifo.length ≤ 16 ∧ 1 ≤ s.capture.watermark ∧ s.capture.watermark ≤ 16 ∧ s.capture.latch.left ≤ 15

/-! ### Notification Queue (R133) -/

/-- An OVERFLOW entry (R130). -/
def Notification.isOverflow (n : Notification) : Bool :=
  match n.body with
  | .overflow _ => true
  | .fire _ | .chainMiss _ _ | .triggerMiss _ _ | .guardTrip _ | .patternEmpty _ | .mark | .synced _ => false
  | .captureLevel _ | .captureLost _ | .clockSwitched _ | .clockFail | .clockLoss | .cmdDone _ _ => false

/-- No two OVERFLOW entries stand next to each other (R133). -/
def overflowsApart : List Notification → Bool
  | [] => true
  | [_] => true
  | a :: b :: rest => !(a.isOverflow && b.isOverflow) && overflowsApart (b :: rest)

/-- The queue holds at most 32 entries, any entry in the 32nd place is an OVERFLOW entry, and no two OVERFLOW entries
stand next to each other (R133). -/
def QueueSound (q : List Notification) : Prop :=
  q.length ≤ 32 ∧ (∀ n, q[31]? = some n → n.isOverflow = true) ∧ overflowsApart q = true

/-! ### Serial Port (R153, R154) -/

/-- A frame is in progress only while CSN is low and RSTN high, and SDO drives only in READ (R153, R154). -/
def PortSound (s : State) : Prop :=
  (s.port.frame ≠ .idle → s.pins.csnLow = true ∧ s.pins.rstnLow = false)
    ∧ (s.port.sdo.isSome = true → s.port.frame = .read)

/-- All of these together: what every state that a run from reset reaches satisfies. -/
def StateSound (s : State) : Prop :=
  ListMatchesSlots s ∧ ListInOrder s ∧ SlotsSound s ∧ SuspensionSound s ∧ LinesSound s ∧ TimebaseSound s
    ∧ ClockSound s.clock ∧ ChannelsSound s ∧ FifoSound s ∧ QueueSound s.queue.entries ∧ PortSound s
    ∧ FireSound s

end Sys2Proof.Machine
end

