-- ==== Sys2Proof/WellFormed.lean ====
section
/-! DEFINITION. Which terms of `Instr` stand for a step of the part. Every operand but one takes every value of
its type; the code of UNKNOWN_COMMAND is one that names no command (R141, R146). -/

namespace Sys2Proof

/-- The codes that name a command (R146). -/
def commandCodes : List Byte :=
  [0x01, 0x02, 0x03, 0x04, 0x05, 0x06, 0x10, 0x11, 0x12, 0x20, 0x21, 0x22, 0x28,
   0x30, 0x31, 0x32, 0x33, 0x34, 0x38, 0x3F]

/-- A code names a command when the summary of R146 lists it. -/
def namesCommand (code : Byte) : Bool := commandCodes.contains code

/-- The well-formed steps. -/
def Instr.wellFormed : Instr → Bool
  | .unknownCommand code => !namesCommand code
  | .load | .arm | .disarm | .release | .retime | .query => true
  | .suspendGroup | .suspendGroupVisit | .resumeGroup | .resumeGroupVisit => true
  | .disarmGroup | .disarmGroupVisit => true
  | .start | .stop | .settime | .resortComplete | .switchClock => true
  | .loadPattern | .clearPattern | .clearTrip | .lockLines => true
  | .safe | .safeSlotVisit | .safeLineVisit => true
  | .flushCapture | .softReset | .collide _ | .commandCompletion => true
  | .fire | .releaseOfAPulse _ | .guardTick | .holdnAssertion | .holdnRelease => true
  | .lineConfigurationCommit _ | .tick | .syncEdge | .refclkEdge | .gapTooLong | .switchTimeout => true
  | .captureInputChange _ | .acceptance _ | .channelConfigurationCommit _ => true
  | .capturePop | .notificationPop | .statusRead | .latchRead => true
  | .irqEnableWrite _ | .registerWrite _ => true
  | .frameStart | .addressByte _ | .frameEnd | .fullReset | .endOfFullReset => true

end Sys2Proof
end

