-- ==== Sys2Proof/Certificates/Slice0/Obligations.lean ====
section
/-! DEFINITION. The statements for the provers. Each is a rule of the manual, or a consequence of rules, in terms of
the machine; a next state is written as an update of the state before, so that what it does not name is unchanged. -/

section Statements

open Sys2Proof Sys2Proof.Machine

/-! ### The machine -/

/-- One happening is taken whole at each step, from the front of the queue; with nothing waiting the block idles, which
is the model's choice (log 1). -/
def Obligations.StepTakesTheHead : Prop :=
  (∀ (c : Instr) (rest : List Instr) (s : State),
      s.pending = c :: rest → step s = exec c { s with pending := rest })
    ∧ ∀ s : State, s.pending = [] → step s = .next s

/-- Every step answers a next state and consumes one happening (log 21: no happening stops the part). -/
def Obligations.EveryStepAnswers : Prop :=
  ∀ s : State, ∃ t : State, step s = .next t ∧ t.pending = s.pending.tail

/-- After full reset every slot is cleared, the list empty, the Dispatcher IDLE, every line disabled with its reset
configuration, every group lowered, T and E at 0 and STOPPED, the source INT, every channel OFF and STABLE at its input's
level, the FIFO and the queue empty, POSTMASK 0x0FDF, the Command Unit IDLE with RESULT NONE, the selectors, the holding
bytes and the latches of the window 0, and the port IDLE (R26, R36, R54, R77, R90, R105, R115, R127, R138, R151, R154 to
R156). -/
def Obligations.ResetValues : Prop :=
  (∀ i : SlotId, State.reset.slot i = Slot.cleared)
    ∧ State.reset.plist = []
    ∧ State.reset.dispatcher = .idle
    ∧ (∀ l : LineId,
        (State.reset.line l).config = ⟨false, .activeHigh, .pushPull, .inactive, 0⟩
          ∧ (State.reset.line l).mode = .off ∧ (State.reset.line l).level = .inactive
          ∧ (State.reset.line l).driven = false ∧ (State.reset.line l).pulse = none
          ∧ (State.reset.line l).current.count = 0 ∧ (State.reset.line l).next = none
          ∧ (State.reset.line l).guardCount = 0)
    ∧ State.reset.lineUnit.locked = false ∧ State.reset.lineUnit.lockViol = false
    ∧ State.reset.lineUnit.trips = []
    ∧ (∀ g : GroupId, State.reset.group g = ⟨false, 0⟩)
    ∧ State.reset.timebase = ⟨0, 0, 0, false, none, false, 0, none⟩
    ∧ State.reset.clock = ⟨.int, .none, false, .idle, none⟩
    ∧ (∀ k : ChannelId, State.reset.channel k = ⟨.off, 0, none, 0, .stable (State.reset.inputLevel k), none⟩)
    ∧ State.reset.capture.fifo = [] ∧ State.reset.capture.watermark = 1 ∧ State.reset.capture.latch = ⟨none, 0⟩
    ∧ State.reset.queue = ⟨[], 0x0FDF, false, none⟩
    ∧ State.reset.cmd.inHand = none ∧ State.reset.cmd.code = 0
    ∧ State.reset.cmd.args = Vector.replicate 8 0 ∧ State.reset.cmd.staging = Staging.zero
    ∧ State.reset.cmd.readback = Slot.cleared ∧ State.reset.cmd.result = .none
    ∧ State.reset.cmd.done = false ∧ State.reset.cmd.collide = false
    ∧ State.reset.window.lineSel = 0 ∧ State.reset.window.capSel = 0 ∧ State.reset.window.groupSel = 0
    ∧ State.reset.window.hold = ⟨0, 0, 0, 0, 0, 0, 0, 0, 0⟩
    ∧ State.reset.window.timeLatch = Vector.replicate 6 0 ∧ State.reset.window.nextDueLatch = Vector.replicate 4 0
    ∧ State.reset.window.pendCountLatch = 0 ∧ State.reset.window.lineStatLatch = Vector.replicate 10 0
    ∧ State.reset.window.capCfgLatch = Vector.replicate 6 0 ∧ State.reset.window.groupStatLatch = Vector.replicate 5 0
    ∧ State.reset.port.frame = .idle ∧ State.reset.port.pointer = 0 ∧ State.reset.port.sdo = none

/-- The state after reset satisfies every invariant. -/
def Obligations.ResetIsSound : Prop := StateSound State.reset

/-! ### Slot commands (01) -/

/-- LOAD on an EMPTY or LOADED slot that no fire has claimed: a captured record that fails R12 is answered RANGE, any other
becomes the slot's descriptor, the run fields unchanged (R11, R12). `stagingOf d` writes each field of `d` in the encodings
of R161. -/
def Obligations.LoadChecksAndStores : Prop :=
  ∀ (s : State) (i : SlotId),
    TakesCommand s → (argNow s 0).toNat = i.val → NotFired s i →
    ((s.slot i).state = .empty ∨ (s.slot i).state = .loaded) →
    (PassesR12 s.cmd.staging →
        ∃ d : Descriptor, stagingOf d = storedFrom s.cmd.staging
          ∧ exec .load s = .next { answered s 0x01 .ok with
              slots := s.slots.set i { s.slot i with desc := d, state := .loaded } })
      ∧ (¬ PassesR12 s.cmd.staging → exec .load s = .next (answered s 0x01 .range))

/-- A slot number above 63 is answered RANGE by all six slot commands, a slot in a state the command does not accept
STATE, and nothing else changes (R10). A command on the slot being fired finds it as the end of the fire leaves it: no
claim sees another half done (R9, R38). That the command's step then runs the fire to its end is the model's choice (log
24). -/
def Obligations.SlotCommandRefusals : Prop :=
  ∀ s : State, TakesCommand s →
    (64 ≤ (argNow s 0).toNat →
        exec .load s = .next (answered s 0x01 .range) ∧ exec .arm s = .next (answered s 0x02 .range)
          ∧ exec .disarm s = .next (answered s 0x03 .range) ∧ exec .release s = .next (answered s 0x04 .range)
          ∧ exec .retime s = .next (answered s 0x05 .range) ∧ exec .query s = .next (answered s 0x06 .range))
      ∧ ∀ i : SlotId, (argNow s 0).toNat = i.val →
        (NotFired s i →
          ((s.slot i).state = .pending ∨ (s.slot i).state = .suspended →
              exec .load s = .next (answered s 0x01 .state))
            ∧ ((s.slot i).state ≠ .loaded →
              exec .arm s = .next (answered s 0x02 .state) ∧ exec .release s = .next (answered s 0x04 .state))
            ∧ ((s.slot i).state = .empty ∨ (s.slot i).state = .loaded →
              exec .disarm s = .next (answered s 0x03 .state))
            ∧ ((s.slot i).state = .empty → exec .retime s = .next (answered s 0x05 .state)))
          ∧ ∀ u : State, s.firedSlot = some i → FireEnded s u →
            exec .load s = exec .load u ∧ exec .arm s = exec .arm u ∧ exec .disarm s = exec .disarm u
              ∧ exec .release s = exec .release u ∧ exec .retime s = exec .retime u ∧ exec .query s = exec .query u

/-- An ARM that passes its checks initialises the run fields and places the slot by its group's flag (R14 to R16). -/
def Obligations.ArmTakes : Prop :=
  ∀ (s : State) (i : SlotId) (due : Tick),
    TakesCommand s → ListMatchesSlots s → (argNow s 0).toNat = i.val → NotFired s i → (s.slot i).state = .loaded →
    ((argNow s 1 = 0 ∧ due = (s.slot i).desc.time)
      ∨ (argNow s 1 = 1 ∧ (s.slot i).desc.time.toNat < 2 ^ 31 ∧ due = s.now + (s.slot i).desc.time)) →
    ((s.slot i).desc.late = .drop → -((s.slot i).desc.tolerance.toNat : Int) ≤ signedDistance due s.now) →
    exec .arm s = .next { answered s 0x02 .ok with
      slots := s.slots.set i (placedRecord (freshRun (s.slot i) due) (flagOf s i) s.now)
      plist := placedList s s.plist i due (flagOf s i) }

/-- ARM on a LOADED slot is refused RANGE for a mode that is neither ABS nor REL and for a REL time field of 2^31 or
more, and PAST for a DROP slot past by more than its tolerance, whatever its group's flag (R14, R15). -/
def Obligations.ArmRefuses : Prop :=
  ∀ (s : State) (i : SlotId),
    TakesCommand s → (argNow s 0).toNat = i.val → NotFired s i → (s.slot i).state = .loaded →
    (argNow s 1 ≠ 0 → argNow s 1 ≠ 1 → exec .arm s = .next (answered s 0x02 .range))
      ∧ (argNow s 1 = 1 → 2 ^ 31 ≤ (s.slot i).desc.time.toNat → exec .arm s = .next (answered s 0x02 .range))
      ∧ (argNow s 1 = 0 → (s.slot i).desc.late = .drop →
          signedDistance (s.slot i).desc.time s.now < -((s.slot i).desc.tolerance.toNat : Int) →
          exec .arm s = .next (answered s 0x02 .past))

/-- DISARM returns an armed slot to LOADED with its descriptor and run fields, RELEASE clears a LOADED slot, QUERY copies
the whole record of a slot in any state (R8, R18, R20, R24). -/
def Obligations.DisarmReleaseQueryTake : Prop :=
  ∀ (s : State) (i : SlotId),
    TakesCommand s → (argNow s 0).toNat = i.val → NotFired s i →
    ((s.slot i).state = .pending →
        exec .disarm s = .next { answered s 0x03 .ok with
          slots := s.slots.set i { s.slot i with state := .loaded }
          plist := s.plist.filter fun e => e.slot != i })
      ∧ ((s.slot i).state = .suspended →
        exec .disarm s = .next { answered s 0x03 .ok with
          slots := s.slots.set i { s.slot i with state := .loaded } })
      ∧ ((s.slot i).state = .loaded →
        exec .release s = .next { answered s 0x04 .ok with slots := s.slots.set i Slot.cleared })
      ∧ exec .query s = .next { answered s 0x06 .ok with
          cmd := { cmdTaken s 0x06 (.finished .ok) with readback := s.slot i } }

/-- RETIME moves the time field of a LOADED slot, the due time and the entry of a PENDING one, and the remaining time of a
SUSPENDED one within 0 to 2^31 − 1, answering RANGE outside (R21, R22). -/
def Obligations.RetimeMoves : Prop :=
  ∀ (s : State) (i : SlotId),
    TakesCommand s → (argNow s 0).toNat = i.val → NotFired s i →
    ((s.slot i).state = .loaded →
        exec .retime s = .next { answered s 0x05 .ok with
          slots := s.slots.set i { s.slot i with
            desc := { (s.slot i).desc with time := (s.slot i).desc.time + argWordNow s } } })
      ∧ ((s.slot i).state = .pending →
        exec .retime s = .next { answered s 0x05 .ok with
          slots := s.slots.set i { s.slot i with due := (s.slot i).due + argWordNow s }
          plist := insertEntry (s.entryDist s.now) (signedDistance ((s.slot i).due + argWordNow s) s.now) ⟨i, false⟩
            (s.plist.filter fun e => e.slot != i) })
      ∧ ((s.slot i).state = .suspended →
        ∀ moved : Int, moved = ((s.slot i).remaining.toNat : Int) + (argWordNow s).toInt →
          (0 ≤ moved → moved < 2 ^ 31 →
              exec .retime s = .next { answered s 0x05 .ok with
                slots := s.slots.set i { s.slot i with remaining := BitVec.ofInt 32 moved } })
            ∧ (moved < 0 ∨ 2 ^ 31 ≤ moved → exec .retime s = .next (answered s 0x05 .range)))

/-- An insertion places the new entry after every entry not later than it and before the first later one, the others
keeping their order, and it keeps an ordered list ordered (R28, R29). -/
def Obligations.InsertionPlace : Prop :=
  ∀ (key : Entry → Int) (d : Int) (new : Entry) (list : List Entry),
    (∃ front back : List Entry,
        list = front ++ back ∧ insertEntry key d new list = front ++ new :: back
          ∧ (∀ e ∈ front, key e ≤ d) ∧ (∀ e, back.head? = some e → d < key e))
      ∧ (key new = d → (list.Pairwise fun a b => key a ≤ key b) →
          ((insertEntry key d new list).Pairwise fun a b => key a ≤ key b)
            ∧ ∃ front back : List Entry, insertEntry key d new list = front ++ new :: back
              ∧ (∀ e ∈ front, key e ≤ d) ∧ (∀ e ∈ back, d < key e))

/-! ### Groups (04) -/

/-- The three group commands at their taking: RANGE above 7, STATE on a flag that does not match, otherwise the change
of the group record and the walk before slot 0 (R80, R81, R83, R85). -/
def Obligations.GroupCommandsBegin : Prop :=
  ∀ s : State, TakesCommand s →
    (8 ≤ (argNow s 0).toNat →
        exec .suspendGroup s = .next (answered s 0x10 .range) ∧ exec .resumeGroup s = .next (answered s 0x11 .range)
          ∧ exec .disarmGroup s = .next (answered s 0x12 .range))
      ∧ ∀ g : GroupId, (argNow s 0).toNat = g.val →
        ((s.group g).suspended = true → exec .suspendGroup s = .next (answered s 0x10 .state))
          ∧ ((s.group g).suspended = false → exec .resumeGroup s = .next (answered s 0x11 .state))
          ∧ ((s.group g).suspended = false →
            exec .suspendGroup s = .next { s with
              groups := s.groups.set g ⟨true, s.now⟩
              cmd := cmdTaken s 0x10 (.suspendWalk g 0), port := portPast s })
          ∧ ((s.group g).suspended = true →
            exec .resumeGroup s = .next { s with
              groups := s.groups.set g { s.group g with suspended := false }
              cmd := cmdTaken s 0x11 (.resumeWalk g 0), port := portPast s })
          ∧ exec .disarmGroup s = .next { s with cmd := cmdTaken s 0x12 (.disarmWalk g 0), port := portPast s }

/-- SUSPEND_GROUP's visit: a PENDING member loses its entry and becomes SUSPENDED; any other slot is passed over. The walk
goes on to the next slot and ends after slot 63; on the slot being fired, a member or not, the visit waits for the end of the
fire (R9, R80), which its step runs to, the model's choice (log 24). The remaining time is the distance that the slot's entry counts
with, or 0 if that is negative: for an entry that R37 keeps due beyond the half range, RUNNING or STOPPED, that is the
model's reading of R81's signed distance (log 7). -/
def Obligations.SuspendVisit : Prop :=
  ∀ (s : State) (g : GroupId) (i : SlotId) (w : Work),
    s.cmd.inHand = some (.suspendWalk g i) →
    (if h : i.val + 1 < 64 then w = .suspendWalk g ⟨i.val + 1, h⟩ else w = .finished .ok) →
    (ListMatchesSlots s → NotFired s i →
      ((s.slot i).desc.group = g → (s.slot i).state = .pending →
          ∃ e ∈ s.plist, e.slot = i
            ∧ exec .suspendGroupVisit s = .next { s with
                slots := s.slots.set i { s.slot i with
                  state := .suspended, remaining := BitVec.ofNat 32 (s.entryDist s.now e).toNat }
                plist := s.plist.filter fun x => x.slot != i
                cmd := { s.cmd with inHand := some w } })
        ∧ ((s.slot i).desc.group ≠ g ∨ (s.slot i).state ≠ .pending →
          exec .suspendGroupVisit s = .next { s with cmd := { s.cmd with inHand := some w } }))
      ∧ ∀ u : State, s.firedSlot = some i → FireEnded s u → exec .suspendGroupVisit s = exec .suspendGroupVisit u

/-- RESUME_GROUP's visit: a SUSPENDED member becomes PENDING, due its remaining time after T, with an entry in the place
that gives it; any other slot is passed over. On the slot being fired, a member or not, the visit waits for the end of the
fire (R9, R80, R83), which its step runs to, the model's choice (log 24). -/
def Obligations.ResumeVisit : Prop :=
  ∀ (s : State) (g : GroupId) (i : SlotId) (w : Work),
    s.cmd.inHand = some (.resumeWalk g i) →
    (if h : i.val + 1 < 64 then w = .resumeWalk g ⟨i.val + 1, h⟩ else w = .finished .ok) →
    (ListMatchesSlots s → NotFired s i →
      ((s.slot i).desc.group = g → (s.slot i).state = .suspended →
          exec .resumeGroupVisit s = .next { s with
            slots := s.slots.set i { s.slot i with state := .pending, due := s.now + (s.slot i).remaining }
            plist :=
              insertEntry (s.entryDist s.now) (signedDistance (s.now + (s.slot i).remaining) s.now) ⟨i, false⟩ s.plist
            cmd := { s.cmd with inHand := some w } })
        ∧ ((s.slot i).desc.group ≠ g ∨ (s.slot i).state ≠ .suspended →
          exec .resumeGroupVisit s = .next { s with cmd := { s.cmd with inHand := some w } }))
      ∧ ∀ u : State, s.firedSlot = some i → FireEnded s u → exec .resumeGroupVisit s = exec .resumeGroupVisit u

/-- The visits of DISARM_GROUP to a member, and of SAFE to any slot: an armed slot returns to LOADED with its descriptor
and run fields, and a PENDING one loses its entry; on the slot being fired, a member of the group or not, the visit waits for
the end of the fire (R9, R74, R80, R85), which its step runs to, the model's choice (log 24). -/
def Obligations.DisarmVisits : Prop :=
  ∀ (s : State) (i : SlotId),
    (∀ (g : GroupId) (w : Work), s.cmd.inHand = some (.disarmWalk g i) → NotFired s i →
        (if h : i.val + 1 < 64 then w = .disarmWalk g ⟨i.val + 1, h⟩ else w = .finished .ok) →
        ((s.slot i).desc.group = g → (s.slot i).state = .pending →
            exec .disarmGroupVisit s = .next { s with
              slots := s.slots.set i { s.slot i with state := .loaded }
              plist := s.plist.filter fun x => x.slot != i
              cmd := { s.cmd with inHand := some w } })
          ∧ ((s.slot i).desc.group = g → (s.slot i).state = .suspended →
            exec .disarmGroupVisit s = .next { s with
              slots := s.slots.set i { s.slot i with state := .loaded }
              cmd := { s.cmd with inHand := some w } })
          ∧ ((s.slot i).desc.group ≠ g ∨ (s.slot i).state = .empty ∨ (s.slot i).state = .loaded →
            exec .disarmGroupVisit s = .next { s with cmd := { s.cmd with inHand := some w } }))
      ∧ (∀ w : Work, s.cmd.inHand = some (.safeSlots i) → NotFired s i →
        (if h : i.val + 1 < 64 then w = .safeSlots ⟨i.val + 1, h⟩ else w = .safeLines 0) →
        ((s.slot i).state = .pending →
            exec .safeSlotVisit s = .next { s with
              slots := s.slots.set i { s.slot i with state := .loaded }
              plist := s.plist.filter fun x => x.slot != i
              cmd := { s.cmd with inHand := some w } })
          ∧ ((s.slot i).state = .suspended →
            exec .safeSlotVisit s = .next { s with
              slots := s.slots.set i { s.slot i with state := .loaded }
              cmd := { s.cmd with inHand := some w } })
          ∧ ((s.slot i).state = .empty ∨ (s.slot i).state = .loaded →
            exec .safeSlotVisit s = .next { s with cmd := { s.cmd with inHand := some w } }))
      ∧ ∀ u : State, s.firedSlot = some i → FireEnded s u →
        (∀ g, s.cmd.inHand = some (.disarmWalk g i) → exec .disarmGroupVisit s = exec .disarmGroupVisit u)
          ∧ (s.cmd.inHand = some (.safeSlots i) → exec .safeSlotVisit s = exec .safeSlotVisit u)

/-! ### The Timebase (05) -/

/-- START and STOP: refused STATE by the run state, START refused RANGE above prescaler 8. START takes the prescaler, runs,
begins the phase from nothing and makes every filter in use STABLE at the present level; STOP stops, discards the phase and
abandons every qualification; T and E hold (R94, R95, R119). A trigger arm still to come at STOP, that of an edge accepted
before, is made first, the lowest channel's before the others': the model's choice (log 24). -/
def Obligations.StartAndStop : Prop :=
  ∀ s : State, TakesCommand s →
    (s.timebase.running = true → exec .start s = .next (answered s 0x20 .state))
      ∧ (s.timebase.running = false → 9 ≤ (argNow s 0).toNat → exec .start s = .next (answered s 0x20 .range))
      ∧ (s.timebase.running = false → ∀ p : Fin 9, (argNow s 0).toNat = p.val →
          ∃ t : State, exec .start s = .next t
            ∧ t = { answered s 0x20 .ok with
                timebase := { s.timebase with prescaler := p, running := true, phase := some 0 }
                capture := { s.capture with channels := t.capture.channels } }
            ∧ ∀ k : ChannelId, t.channel k =
                if (s.channel k).edge = .off then s.channel k
                else { s.channel k with filter := .stable (s.inputLevel k) })
      ∧ (s.timebase.running = false → exec .stop s = .next (answered s 0x21 .state))
      ∧ (s.timebase.running = true → NoArms s →
          ∃ t : State, exec .stop s = .next t
            ∧ t = { answered s 0x21 .ok with
                timebase := { s.timebase with running := false, phase := none }
                capture := { s.capture with channels := t.capture.channels } }
            ∧ ∀ k : ChannelId,
              (∀ l, (s.channel k).filter = .stable l → t.channel k = s.channel k)
                ∧ ∀ l a b, (s.channel k).filter = .qualifying l a b →
                  t.channel k = { s.channel k with filter := .stable (s.inputLevel k) })
      ∧ (s.timebase.running = true → ∀ (k : ChannelId) (u : State),
          (s.channel k).arm ≠ none → (∀ j : ChannelId, j < k → (s.channel j).arm = none) →
          exec (.acceptance k) s = .next u → exec .stop s = exec .stop u)

/-- SETTIME in KEEP_DISTANCE mode loads T and E and shifts the due time of every listed slot, the release time of every
pulse and the times held in a fire's copy by new T minus old T; every other slot and line field keeps its value, and every
entry keeps its distance (R32, R53, R64, R97, R98). A running Timebase refuses SETTIME STATE, a mode byte above 1 is refused
RANGE. -/
def Obligations.SettimeKeepsDistance : Prop :=
  ∀ s : State, TakesCommand s →
    (s.timebase.running = true → exec .settime s = .next (answered s 0x22 .state))
      ∧ (s.timebase.running = false → argNow s 6 ≠ 0 → argNow s 6 ≠ 1 →
          exec .settime s = .next (answered s 0x22 .range))
      ∧ (s.timebase.running = false → argNow s 6 = 0 →
          ∃ t : State, exec .settime s = .next t
            ∧ t = { answered s 0x22 .ok with
                slots := t.slots, dispatcher := t.dispatcher
                lineUnit := { s.lineUnit with lines := t.lineUnit.lines }
                timebase := { s.timebase with t := argTimeNow s, e := argNow s 5 ++ argNow s 4 } }
            ∧ (s.dispatcher = .idle → t.dispatcher = .idle)
            ∧ (∀ c stage, s.dispatcher = .firing c stage →
                t.dispatcher = .firing { c with
                  nominal := c.nominal + (argTimeNow s - s.now), fireTick := c.fireTick + (argTimeNow s - s.now) } stage)
            ∧ (∀ i : SlotId, s.listed i = true →
                t.slot i = { s.slot i with due := (s.slot i).due + (argTimeNow s - s.now) })
            ∧ (∀ i : SlotId, s.listed i = false → t.slot i = s.slot i)
            ∧ (∀ l : LineId, t.line l = { s.line l with
                pulse := (s.line l).pulse.map fun p => { p with release := p.release + (argTimeNow s - s.now) } })
            ∧ ∀ e ∈ s.plist, t.entryDist t.now e = s.entryDist s.now e)

/-- SETTIME in KEEP_ABSOLUTE mode changes no time and leaves its re-sort in flight; at the end of the re-sort the list
takes its new order in the happening in which T and E take their new values, the entries ordered by their distance from
the new T, those of equal due time as they stood, and where T does not change the list is as it was. No due time changes
(R33, R99). That an entry kept due by R37 is judged afresh by a T that differs is the model's reading (log 7), and that a
fire still in progress runs to its end before the re-sort begins the model's choice (log 24). -/
def Obligations.SettimeResorts : Prop :=
  (∀ s : State, TakesCommand s → s.timebase.running = false → argNow s 6 = 1 →
      (s.dispatcher = .idle →
        exec .settime s = .next { s with
          cmd := cmdTaken s 0x22 (.resort (argTimeNow s) (argNow s 5 ++ argNow s 4)), port := portPast s })
        ∧ ∀ u : State, FireEnded s u → exec .settime s = exec .settime u)
    ∧ ∀ (s : State) (time : Tick) (epoch : BitVec 16), s.cmd.inHand = some (.resort time epoch) →
      ∃ t : State, exec .resortComplete s = .next t
        ∧ t = { s with
            plist := t.plist, timebase := { s.timebase with t := time, e := epoch }
            cmd := { s.cmd with inHand := some (.finished .ok) } }
        ∧ (time = s.now → t.plist = s.plist)
        ∧ (time ≠ s.now →
          (∀ e ∈ t.plist, e.keptDue = false)
            ∧ t.plist.Pairwise fun a b =>
                signedDistance (s.slot a.slot).due time ≤ signedDistance (s.slot b.slot).due time)
        ∧ (t.plist.map Entry.slot).Perm (s.plist.map Entry.slot)
        ∧ ∀ due : Tick,
          (t.plist.filter fun e => (s.slot e.slot).due == due).map Entry.slot
            = (s.plist.filter fun e => (s.slot e.slot).due == due).map Entry.slot

/-- A counting tick raises T, raises E where T wraps, and posts MARK where the selected bit rises; a STOPPED Timebase
does not count (R93, R103). An entry that the tick carries past the half range stays due (R37), which the model marks in
the entry (log 7). -/
def Obligations.TickCounts : Prop :=
  ∀ s : State,
    (s.timebase.running = false → exec .tick s = .next s)
      ∧ (s.timebase.running = true →
          exec .tick s = .next { s with
            timebase := { s.timebase with
              t := s.now + 1, e := (if s.now.toNat = 2 ^ 32 - 1 then s.timebase.e + 1 else s.timebase.e)
              phase := some 0 }
            plist := s.plist.map fun e =>
              if signedDistance (s.slot e.slot).due s.now = -2147483648 then { e with keptDue := true } else e
            queue := (if ∃ b, s.timebase.marker = some b ∧ s.now.getLsbD b.val = false
                ∧ (s.now + 1).getLsbD b.val = true
              then queueAfter (s.now + 1) s.queue ⟨s.now + 1, .mark⟩ else s.queue) })

/-- An honoured SYNC edge loads T with SYNCVAL, keeps E, restarts the phase, shifts every stored future time by new T
minus old T, keeping its distance, those of a fire's copy and of the capture filters with them, and posts SYNCED; any other
edge changes nothing (R53, R100, R101, R120). That the due time of a trigger arm still to come shifts too is the model's
choice (log 24). -/
def Obligations.SyncEdgeLoads : Prop :=
  ∀ s : State,
    (s.timebase.running = false ∨ s.timebase.syncEnable = false → exec .syncEdge s = .next s)
      ∧ (s.timebase.running = true → s.timebase.syncEnable = true →
          ∃ (t : State) (shift : Tick), shift = s.timebase.syncVal - s.now ∧ exec .syncEdge s = .next t
            ∧ t = { s with
                slots := t.slots, dispatcher := t.dispatcher
                lineUnit := { s.lineUnit with lines := t.lineUnit.lines }
                capture := { s.capture with channels := t.capture.channels }
                timebase := { s.timebase with t := s.timebase.syncVal, phase := some 0 }
                queue := queueAfter s.timebase.syncVal s.queue ⟨s.timebase.syncVal, .synced s.now⟩ }
            ∧ (s.dispatcher = .idle → t.dispatcher = .idle)
            ∧ (∀ c stage, s.dispatcher = .firing c stage →
                t.dispatcher = .firing { c with
                  nominal := c.nominal + shift, fireTick := c.fireTick + shift } stage)
            ∧ (∀ i : SlotId, s.listed i = true → t.slot i = { s.slot i with due := (s.slot i).due + shift })
            ∧ (∀ i : SlotId, s.listed i = false → t.slot i = s.slot i)
            ∧ (∀ l : LineId, t.line l = { s.line l with
                pulse := (s.line l).pulse.map fun p => { p with release := p.release + shift } })
            ∧ (∀ (k : ChannelId) (arm : Option TriggerArm),
                arm = (s.channel k).arm.map (fun a => { a with due := a.due + shift }) →
                (∀ l, (s.channel k).filter = .stable l → t.channel k = { s.channel k with arm := arm })
                  ∧ ∀ l a b, (s.channel k).filter = .qualifying l a b →
                    t.channel k = { s.channel k with filter := .qualifying l (a + shift) (b + shift), arm := arm })
            ∧ ∀ e ∈ s.plist, t.entryDist t.now e = s.entryDist s.now e)

/-! ### The Clock Unit (06) -/

/-- SWITCH_CLOCK in every state: RANGE for any other source byte, STATE while a switch is pending or for the present
source, the switch to INT at once, the request for EXT pending (R109 to R111). -/
def Obligations.SwitchClockTable : Prop :=
  ∀ s : State, TakesCommand s →
    (argNow s 0 ≠ 0 → argNow s 0 ≠ 1 → exec .switchClock s = .next (answered s 0x28 .range))
      ∧ (argNow s 0 = 0 ∨ argNow s 0 = 1 → s.clock.switching ≠ .none →
          exec .switchClock s = .next (answered s 0x28 .state))
      ∧ (s.clock.switching = .none →
          (argNow s 0 = 0 ∧ s.clock.source = .int ∨ argNow s 0 = 1 ∧ s.clock.source = .ext) →
          exec .switchClock s = .next (answered s 0x28 .state))
      ∧ (s.clock.switching = .none → argNow s 0 = 0 → s.clock.source = .ext →
          exec .switchClock s = .next { answered s 0x28 .ok with
            clock := ⟨.int, .none, false, .idle, none⟩
            timebase := { s.timebase with phase := if s.timebase.running then some 0 else none }
            queue := queueAfter s.now s.queue ⟨s.now, .clockSwitched .int⟩ })
      ∧ (s.clock.switching = .none → argNow s 0 = 1 → s.clock.source = .int →
          exec .switchClock s = .next { answered s 0x28 .ok with
            clock := ⟨.int, .pendingExt 0, s.clock.degraded, .confirming 0, some 0⟩ })

/-- The REFCLK monitor: edges count towards the 64th, which confirms the switch; a gap too long restarts the count, or is a
loss of the source; the switch timer fails a pending switch. Confirmation and loss hand the Timebase over; the three
outcomes post CLOCK_SWITCHED, CLOCK_LOSS and CLOCK_FAIL; an IDLE monitor ignores REFCLK (R108, R110 to R113). -/
def Obligations.RefclkMonitor : Prop :=
  ∀ s : State,
    (s.clock.monitor = .idle → exec .refclkEdge s = .next s ∧ exec .gapTooLong s = .next s)
      ∧ (s.clock.monitor = .watching →
          exec .refclkEdge s = .next { s with clock := { s.clock with gap := some 0 } }
            ∧ exec .gapTooLong s = .next { s with
                clock := ⟨.int, s.clock.switching, true, .idle, none⟩
                timebase := { s.timebase with phase := if s.timebase.running then some 0 else none }
                queue := queueAfter s.now s.queue ⟨s.now, .clockLoss⟩ })
      ∧ (∀ n, s.clock.monitor = .confirming n →
          (n < 63 → exec .refclkEdge s = .next { s with
              clock := { s.clock with monitor := .confirming (n + 1), gap := some 0 } })
            ∧ (63 ≤ n → exec .refclkEdge s = .next { s with
                clock := ⟨.ext, .none, false, .watching, some 0⟩
                timebase := { s.timebase with phase := if s.timebase.running then some 0 else none }
                queue := queueAfter s.now s.queue ⟨s.now, .clockSwitched .ext⟩ })
            ∧ exec .gapTooLong s = .next { s with clock := { s.clock with monitor := .confirming 0, gap := some 0 } })
      ∧ (s.clock.switching = .none → exec .switchTimeout s = .next s)
      ∧ ∀ n, s.clock.switching = .pendingExt n → exec .switchTimeout s = .next { s with
          clock := { s.clock with switching := .none, monitor := .idle, gap := none }
          queue := queueAfter s.now s.queue ⟨s.now, .clockFail⟩ }

/-! ### Output lines (03) -/

/-- LOAD_PATTERN, CLEAR_PATTERN, CLEAR_TRIP and LOCK_LINES: their checks in order, and what each changes (R59, R66, R67,
R71). -/
def Obligations.LineCommands : Prop :=
  ∀ s : State, TakesCommand s →
    (16 ≤ (argNow s 0).toNat →
        exec .loadPattern s = .next (answered s 0x30 .range) ∧ exec .clearPattern s = .next (answered s 0x31 .range)
          ∧ exec .clearTrip s = .next (answered s 0x32 .range))
      ∧ (s.lineUnit.locked = true → exec .lockLines s = .next (answered s 0x33 .state))
      ∧ (s.lineUnit.locked = false → exec .lockLines s = .next { answered s 0x33 .ok with
          lineUnit := { s.lineUnit with locked := true } })
      ∧ ∀ l : LineId, (argNow s 0).toNat = l.val →
        ((argNow s 5 = 0 ∨ 33 ≤ (argNow s 5).toNat) → exec .loadPattern s = .next (answered s 0x30 .range))
          ∧ (1 ≤ (argNow s 5).toNat → (argNow s 5).toNat ≤ 32 →
            ((s.line l).next.isSome = true → exec .loadPattern s = .next (answered s 0x30 .full))
              ∧ ((s.line l).next = none → (s.line l).current.count = 0 →
                exec .loadPattern s = .next { answered s 0x30 .ok with
                  lineUnit := { s.lineUnit with
                    lines := s.lineUnit.lines.set l { s.line l with
                      current := ⟨argWordNow s, (argNow s 5).toNat⟩ } } })
              ∧ ((s.line l).next = none → (s.line l).current.count ≠ 0 →
                exec .loadPattern s = .next { answered s 0x30 .ok with
                  lineUnit := { s.lineUnit with
                    lines := s.lineUnit.lines.set l { s.line l with
                      next := some ⟨argWordNow s, (argNow s 5).toNat⟩ } } }))
          ∧ (∃ t : State, exec .clearPattern s = .next t
              ∧ t = { answered s 0x31 .ok with lineUnit := { s.lineUnit with lines := t.lineUnit.lines } }
              ∧ (∀ m : LineId, m ≠ l → t.line m = s.line m)
              ∧ t.line l = { s.line l with current := (t.line l).current, next := none }
              ∧ (t.line l).current.count = 0)
          ∧ ((s.line l).mode ≠ .tripped → exec .clearTrip s = .next (answered s 0x32 .state))
          ∧ ((s.line l).mode = .tripped → exec .clearTrip s = .next { answered s 0x32 .ok with
              lineUnit := { s.lineUnit with
                lines := s.lineUnit.lines.set l { s.line l with mode := .normal, guardCount := 0 } } })

/-- SAFE begins with slot 0; its visit to a NORMAL line ends the pulse, empties the patterns and takes the safe level with
the guard count at 0, and passes over any other line; after line 15 the command is finished (R74, R75). -/
def Obligations.SafeLines : Prop :=
  (∀ s : State, TakesCommand s →
      exec .safe s = .next { s with cmd := cmdTaken s 0x34 (.safeSlots 0), port := portPast s })
    ∧ ∀ (s : State) (l : LineId) (w : Work), s.cmd.inHand = some (.safeLines l) →
      (if h : l.val + 1 < 16 then w = .safeLines ⟨l.val + 1, h⟩ else w = .finished .ok) →
      ∃ t : State, exec .safeLineVisit s = .next t
        ∧ t = { s with
            lineUnit := { s.lineUnit with lines := t.lineUnit.lines }
            cmd := { s.cmd with inHand := some w } }
        ∧ (∀ m : LineId, m ≠ l → t.line m = s.line m)
        ∧ ((s.line l).mode ≠ .normal → t.line l = s.line l)
        ∧ ((s.line l).mode = .normal →
            t.line l = { s.line l with
                level := (if (s.line l).config.safe = .active then .active else .inactive)
                driven := decide ((s.line l).config.safe ≠ .float)
                pulse := none, current := (t.line l).current, next := none, guardCount := 0 }
              ∧ (t.line l).current.count = 0)

/-- A line configuration commit under the lock changes no line and raises LOCKVIOL; otherwise the selected line takes the
five committed fields, and its run fields respond row by row of R58's table (R58, R59, R69, R155). -/
def Obligations.LineConfigurationCommits : Prop :=
  ∀ (s : State) (v : Byte) (l : LineId) (new : LineConfig),
    WritesAt s 0x43 → l.val = s.window.lineSel.toNat →
    new = lineConfigOf (putByte s.window.hold.lineConfig 2 v) →
    ∃ t : State, exec (.lineConfigurationCommit v) s = .next t
      ∧ t = { s with
          lineUnit := t.lineUnit, queue := t.queue, port := portPast s
          window := { s.window with
            hold := { s.window.hold with lineConfig := putByte s.window.hold.lineConfig 2 v } } }
      ∧ (s.lineUnit.locked = true → t.lineUnit = { s.lineUnit with lockViol := true } ∧ t.queue = s.queue)
      ∧ (s.lineUnit.locked = false →
          t.lineUnit = { s.lineUnit with lines := t.lineUnit.lines }
            ∧ (∀ m : LineId, m ≠ l → t.line m = s.line m)
            ∧ (t.line l).config = new
            ∧ (t.line l).current = (s.line l).current ∧ (t.line l).next = (s.line l).next
            ∧ ((s.line l).config.enabled = false → new.enabled = true → s.pins.holdnLow = false →
                (t.line l).mode = .normal ∧ (t.line l).level = .inactive ∧ (t.line l).driven = true
                  ∧ (t.line l).pulse = (s.line l).pulse ∧ (t.line l).guardCount = 0 ∧ t.queue = s.queue)
            ∧ ((s.line l).config.enabled = false → new.enabled = true → s.pins.holdnLow = true →
                (t.line l).mode = .forced .normal
                  ∧ (t.line l).level = (if new.safe = .active then .active else .inactive)
                  ∧ (t.line l).driven = decide (new.safe ≠ .float)
                  ∧ (t.line l).pulse = (s.line l).pulse ∧ (t.line l).guardCount = 0 ∧ t.queue = s.queue)
            ∧ ((s.line l).config.enabled = true → new.enabled = false →
                (t.line l).mode = .off ∧ (t.line l).level = .inactive ∧ (t.line l).driven = false
                  ∧ (t.line l).pulse = none ∧ (t.line l).guardCount = 0 ∧ t.queue = s.queue)
            ∧ ((s.line l).config.enabled = new.enabled →
                (∀ h, (s.line l).mode = .forced h → new.safe ≠ (s.line l).config.safe →
                    t.queue = s.queue ∧ t.line l = { s.line l with
                      config := new
                      level := (if new.safe = .active then .active else .inactive)
                      driven := decide (new.safe ≠ .float) })
                  ∧ ((s.line l).mode = .normal → (s.line l).driven = true → (s.line l).level = .active →
                    new.guardLimit ≠ (s.line l).config.guardLimit → new.guardLimit ≠ 0 →
                    new.guardLimit.toNat ≤ (s.line l).guardCount.toNat →
                    t.line l = { s.line l with
                        config := new, mode := .tripped, level := .inactive, driven := true, pulse := none
                        guardCount := 0 }
                      ∧ t.queue = queueAfter s.now s.queue ⟨s.now, .guardTrip l⟩)
                  ∧ ((∀ h, (s.line l).mode ≠ .forced h) ∨ new.safe = (s.line l).config.safe →
                    ((s.line l).mode ≠ .normal ∨ (s.line l).driven = false ∨ (s.line l).level = .inactive
                      ∨ new.guardLimit = 0 ∨ new.guardLimit = (s.line l).config.guardLimit
                      ∨ (s.line l).guardCount.toNat < new.guardLimit.toNat) →
                    t.line l = { s.line l with config := new } ∧ t.queue = s.queue)))

/-- A guard tick raises the count of every NORMAL line driven ACTIVE, trips those it brings to a limit that is not 0, and
leaves every other line as it was; each trip posts GUARD_TRIP (R68, R69). The order in which the posts of one guard tick
reach the queue is free (log 9), so some order of the tripping lines gives it. Where the world lets other happenings in
after n + 1 of the posts, those after them are left to come with their stamps (R132); where it does, and that the row goes on
with them, is the model's choice (log 24). -/
def Obligations.GuardTickOnEveryLine : Prop :=
  ∀ (s : State) (n : Nat), (s.pauses.head? = some n ∨ s.pauses = [] ∧ n = 16) →
    (s.lineUnit.trips = [] → ∃ (t : State) (order : List LineId), exec .guardTick s = .next t
      ∧ t = { s with
          lineUnit := { s.lineUnit with
            lines := t.lineUnit.lines, trips := (order.drop (n + 1)).map fun l => (l, s.now) }
          draws := s.draws + 1, pauses := (if order = [] then s.pauses else s.pauses.tail)
          queue := queueAfterAll s.now s.queue ((order.take (n + 1)).map fun l => ⟨s.now, .guardTrip l⟩) }
      ∧ order.Nodup
      ∧ ∀ l : LineId,
        ((s.line l).mode ≠ .normal ∨ (s.line l).driven = false ∨ (s.line l).level = .inactive →
            t.line l = s.line l ∧ l ∉ order)
          ∧ ((s.line l).mode = .normal → (s.line l).driven = true → (s.line l).level = .active →
            ((s.line l).config.guardLimit ≠ 0 →
                (s.line l).config.guardLimit.toNat = min ((s.line l).guardCount.toNat + 1) 65535 →
                t.line l = { s.line l with
                    mode := .tripped, level := .inactive, driven := true, pulse := none, guardCount := 0 }
                  ∧ l ∈ order)
              ∧ ((s.line l).config.guardLimit = 0
                  ∨ (s.line l).config.guardLimit.toNat ≠ min ((s.line l).guardCount.toNat + 1) 65535 →
                t.line l = { s.line l with
                    guardCount := BitVec.ofNat 16 (min ((s.line l).guardCount.toNat + 1) 65535) }
                  ∧ l ∉ order)))
      ∧ (s.lineUnit.trips ≠ [] → exec .guardTick s = .next { s with
          lineUnit := { s.lineUnit with trips := s.lineUnit.trips.drop (n + 1) }, pauses := s.pauses.tail
          queue := queueAfterAll s.now s.queue
            ((s.lineUnit.trips.take (n + 1)).map fun x => ⟨x.2, .guardTrip x.1⟩) })

/-- A due release ends the pulse: INACTIVE, no owner, guard count 0, still driven and in its mode; nothing is posted. A
line without a due release is left as it is (R63). -/
def Obligations.PulseReleaseTaken : Prop :=
  ∀ (s : State) (l : LineId),
    (∀ p, (s.line l).pulse = some p → s.timebase.running = true → signedDistance p.release s.now ≤ 0 →
        exec (.releaseOfAPulse l) s = .next { s with
          lineUnit := { s.lineUnit with
            lines := s.lineUnit.lines.set l { s.line l with level := .inactive, pulse := none, guardCount := 0 } } })
      ∧ ((s.line l).pulse = none → exec (.releaseOfAPulse l) s = .next s)
      ∧ ∀ p, (s.line l).pulse = some p → (s.timebase.running = false ∨ 0 < signedDistance p.release s.now) →
        exec (.releaseOfAPulse l) s = .next s

/-- HOLDN falls: every NORMAL or TRIPPED line becomes FORCED at its safe level, holding its mode. HOLDN rises: every FORCED
line returns by its held mode. OFF lines and the pattern buffers are left as they are (R72, R73). That the row of an edge
changes nothing where the pin already has the level it goes to is the model's choice (log 2). -/
def Obligations.HoldnChanges : Prop :=
  ∀ s : State,
    (s.pins.holdnLow = true → exec .holdnAssertion s = .next s)
      ∧ (s.pins.holdnLow = false → exec .holdnRelease s = .next s)
      ∧ (s.pins.holdnLow = false →
          ∃ t : State, exec .holdnAssertion s = .next t
            ∧ t = { s with
                lineUnit := { s.lineUnit with lines := t.lineUnit.lines }, pins := { s.pins with holdnLow := true } }
            ∧ ∀ l : LineId,
              (∀ h, ((s.line l).mode = .normal ∧ h = .normal ∨ (s.line l).mode = .tripped ∧ h = .tripped) →
                  t.line l = { s.line l with
                    mode := .forced h
                    level := (if (s.line l).config.safe = .active then .active else .inactive)
                    driven := decide ((s.line l).config.safe ≠ .float)
                    pulse := none, guardCount := 0 })
                ∧ ((s.line l).mode ≠ .normal → (s.line l).mode ≠ .tripped → t.line l = s.line l))
      ∧ (s.pins.holdnLow = true →
          ∃ t : State, exec .holdnRelease s = .next t
            ∧ t = { s with
                lineUnit := { s.lineUnit with lines := t.lineUnit.lines }, pins := { s.pins with holdnLow := false } }
            ∧ ∀ l : LineId,
              ((s.line l).mode = .forced .normal →
                  t.line l = { s.line l with
                    mode := .normal
                    level := (if (s.line l).config.safe = .active then .active else .inactive)
                    driven := decide ((s.line l).config.safe ≠ .float), guardCount := 0 })
                ∧ ((s.line l).mode = .forced .tripped →
                  t.line l = { s.line l with mode := .tripped, level := .inactive, driven := true, guardCount := 0 })
                ∧ ((∀ h, (s.line l).mode ≠ .forced h) → t.line l = s.line l))

/-- SET, CLEAR, TOGGLE and PULSE handed to a line: BLOCKED and unchanged out of NORMAL mode; on a NORMAL line the pulse is
ended, the level set, the line driven and the guard count kept only where an ACTIVE driven line stays ACTIVE; another
slot's pulse is answered with preemption, and PULSE takes the line for its slot (R60 to R62). The pin shows the level
through polarity and drive whenever the line is driven, and an OPEN_DRAIN line never drives its pin high (R56). -/
def Obligations.ActionsOnALine : Prop :=
  ∀ (l : Line) (action : Action) (slot : SlotId) (width : BitVec 16) (tick : Tick) (level : Level),
    (l.mode ≠ .normal → l.act action slot width tick = ⟨l, .blocked, false⟩)
      ∧ (l.mode = .normal →
          (action = .set ∧ level = .active ∨ action = .clear ∧ level = .inactive
            ∨ action = .pulse ∧ level = .active
            ∨ action = .toggle ∧ level = (if l.level = .active then .inactive else .active)) →
          (l.act action slot width tick).line = { l with
              level := level, driven := true
              pulse := (if action = .pulse then some ⟨slot, tick + width.setWidth 32⟩ else none)
              guardCount := (if level = .active ∧ l.level = .active ∧ l.driven = true then l.guardCount else 0) }
            ∧ (l.act action slot width tick).patternEmpty = false
            ∧ ((l.pulse = none ∨ ∃ p, l.pulse = some p ∧ p.owner = slot) →
                (l.act action slot width tick).answer = .done)
            ∧ ∀ p, l.pulse = some p → p.owner ≠ slot →
              (l.act action slot width tick).answer = .preempted p.owner)
      ∧ (l.driven = false → l.pin = .highImpedance)
      ∧ (l.driven = true → l.config.drive = .pushPull →
          (l.level = .active → l.config.polarity = .activeHigh → l.pin = .high)
            ∧ (l.level = .active → l.config.polarity = .activeLow → l.pin = .low)
            ∧ (l.level = .inactive → l.config.polarity = .activeHigh → l.pin = .low)
            ∧ (l.level = .inactive → l.config.polarity = .activeLow → l.pin = .high))
      ∧ (l.driven = true → l.config.drive = .openDrain →
          (l.level = .active → l.config.polarity = .activeHigh → l.pin = .released)
            ∧ (l.level = .active → l.config.polarity = .activeLow → l.pin = .low)
            ∧ (l.level = .inactive → l.config.polarity = .activeHigh → l.pin = .low)
            ∧ (l.level = .inactive → l.config.polarity = .activeLow → l.pin = .released))
      ∧ (l.config.drive = .openDrain → l.pin ≠ .high)

/-- SHIFT on a NORMAL line: without a bit left UNDERRUN and nothing changes; with one, the level is the highest position
still to be sent, the pulse ends, and the buffers move on, the next pattern becoming current after the last bit, or the
pattern running empty (R65). -/
def Obligations.ShiftTakesAPattern : Prop :=
  ∀ (l : Line) (slot : SlotId) (width : BitVec 16) (tick : Tick), l.mode = .normal →
    (l.current.count = 0 → l.act .shift slot width tick = ⟨l, .underrun, false⟩)
      ∧ ∀ level : Level,
        (level = if l.current.word.getLsbD (l.current.count - 1) then .active else .inactive) →
        l.current.count ≠ 0 →
        ∃ after : Line,
          (l.act .shift slot width tick).line = after
            ∧ after = { l with
                level := level, driven := true, pulse := none, current := after.current, next := after.next
                guardCount := (if level = .active ∧ l.level = .active ∧ l.driven = true then l.guardCount else 0) }
            ∧ (2 ≤ l.current.count →
                after.current = ⟨l.current.word, l.current.count - 1⟩ ∧ after.next = l.next)
            ∧ (∀ p, l.current.count = 1 → l.next = some p → after.current = p ∧ after.next = none)
            ∧ (l.current.count = 1 → l.next = none → after.current.count = 0 ∧ after.next = none)
            ∧ ((l.act .shift slot width tick).patternEmpty = true ↔ l.current.count = 1 ∧ l.next = none)
            ∧ ((l.pulse = none ∨ ∃ p, l.pulse = some p ∧ p.owner = slot) →
                (l.act .shift slot width tick).answer = .done)
            ∧ ∀ p, l.pulse = some p → p.owner ≠ slot →
              (l.act .shift slot width tick).answer = .preempted p.owner

/-! ### Fires (02) -/

/-- The Dispatcher takes a due head and no other entry; a fire leaves the Dispatcher IDLE and everything alone but the
fired slot, its chain target, its line, the list and the queue (R37, R38, R49, R54). Its stages are taken in turn: where the
world lets other happenings in after the taking, or after n further stages, the fire stands between two stages and the row
goes on with it (R51, R53). Where they fall is the model's field `pauses`, its choice (log 24). -/
def Obligations.FireTakesTheDueHead : Prop :=
  (∀ s : State, s.dispatcher = .idle → (∀ e rest, ¬ DueHead s e rest) → exec .fire s = .next s)
    ∧ (∀ (s : State) (e : Entry) (rest : List Entry), DueHead s e rest →
      (RunsWhole s 5 →
        ∃ t : State, exec .fire s = .next t
          ∧ t = { s with
              slots := t.slots, plist := t.plist, pauses := s.pauses.tail
              lineUnit := { s.lineUnit with lines := t.lineUnit.lines }
              queue := { s.queue with entries := t.queue.entries } }
          ∧ (∀ l : LineId, (s.slot e.slot).desc.line ≠ some l → t.line l = s.line l)
          ∧ (∀ j : SlotId, j ≠ e.slot → (s.slot e.slot).desc.chain ≠ some j → t.slot j = s.slot j)
          ∧ (∀ j : SlotId, j ≠ e.slot → (s.slot e.slot).desc.chain ≠ some j →
              ∀ k, (⟨j, k⟩ ∈ t.plist ↔ ⟨j, k⟩ ∈ rest)))
        ∧ ∀ more : List Nat, s.pauses = 0 :: more → exec .fire s = .next { s with
            plist := rest, pauses := more
            dispatcher := .firing
              { slot := e.slot, desc := (s.slot e.slot).desc, nominal := (s.slot e.slot).due
                fireTick := s.now, stamp := s.now, lam := (-(s.entryDist s.now e)).toNat } .apply })
    ∧ ∀ s : State, (s.dispatcher ≠ .idle ∨ ∃ e rest, DueHead s e rest) →
      (s.pauses = [] → exec .fire s = exec .fire { s with pauses := [5] })
        ∧ ∀ (n : Nat) (more : List Nat) (m : State), s.pauses = (n + 1) :: more →
          exec .fire { s with pauses := 0 :: n :: more } = .next m →
          (m.dispatcher ≠ .idle → exec .fire s = exec .fire m)
            ∧ (m.dispatcher = .idle → exec .fire s = .next { m with pauses := more })

/-- Accounting and stage five: occurrences rises, repeats are spent on the fire and on what it skips, a slot that has none
left completes, any other is re-armed whole periods after its nominal due time and placed by its group's flag as it then
stands (R42 to R47, R82). First for a fire that nothing falls into, then for the stage alone, whose nominal due time and
fire tick a load of T may have shifted (R53): that a slot which completes then keeps the shifted nominal due time is the
model's reading (log 4). A slot that completes with itself as its chain target is in the statement FireChains. -/
def Obligations.FirePlaces : Prop :=
  (∀ (s : State) (e : Entry) (rest : List Entry) (n : Nat),
    DueHead s e rest → RunsWhole s 5 → ListMatchesSlots s → Skips s e n →
    ∃ t : State, exec .fire s = .next t
      ∧ (Completes (s.slot e.slot) n → (s.slot e.slot).desc.chain ≠ some e.slot ∨ Dropped s e →
          t.slot e.slot = completedRecord (s.slot e.slot) n
            ∧ t.listed e.slot = false
            ∧ ((s.slot e.slot).desc.chain = none → t.plist = rest))
      ∧ (¬ Completes (s.slot e.slot) n →
          t.slot e.slot = placedRecord (rearmedRecord (s.slot e.slot) n) (flagOf s e.slot) s.now
            ∧ t.listed e.slot = !(flagOf s e.slot)
            ∧ ((s.slot e.slot).desc.chain = none →
                t.plist = placedList s rest e.slot (laterDue (s.slot e.slot) n) (flagOf s e.slot))))
    ∧ ∀ (s : State) (c : FireCopy) (a : Applied) (more : List Nat) (n : Nat) (r : Slot),
      s.dispatcher = .firing c (.place a) → s.pauses = 0 :: more → ListMatchesSlots s →
      (s.slot c.slot).desc = c.desc → r = { s.slot c.slot with due := c.nominal } →
      (r.desc.period = 0 → n = 0) → (r.desc.period ≠ 0 → SkipCount r c.fireTick n) →
      (Completes r n → exec .fire s = .next { s with
          slots := s.slots.set c.slot (completedRecord r n)
          dispatcher := .firing c (.chain a true n), pauses := more })
        ∧ (¬ Completes r n → exec .fire s = .next { s with
          slots := s.slots.set c.slot (placedRecord (rearmedRecord r n) (flagOf s c.slot) c.fireTick)
          plist := placedList s s.plist c.slot (laterDue r n) (flagOf s c.slot)
          dispatcher := .firing c (.chain a false n), pauses := more })

/-- Apply or drop: a dropped occurrence and a NOTIFY slot leave every line as it was; any other is handed to the slot's line
with the slot's number and the fire tick, which is T at the taking (R39 to R41). First for a fire that nothing falls into,
then for the stage alone, with the PATTERN_EMPTY that it posts and what it finds for the later stages (R41, R65). That an
action other than NOTIFY with the line NONE is answered done and leaves every line as it was is the model's reading (log 19);
LOAD refuses such a descriptor (R12). -/
def Obligations.FireApplies : Prop :=
  (∀ (s : State) (e : Entry) (rest : List Entry),
    DueHead s e rest → RunsWhole s 5 →
    ∃ t : State, exec .fire s = .next t
      ∧ (Dropped s e → t.lineUnit = s.lineUnit)
      ∧ ((s.slot e.slot).desc.action = .notify → t.lineUnit = s.lineUnit)
      ∧ ∀ l : LineId, ¬ Dropped s e → (s.slot e.slot).desc.action ≠ .notify →
        (s.slot e.slot).desc.line = some l →
        t.line l = ((s.line l).act (s.slot e.slot).desc.action e.slot (s.slot e.slot).desc.width s.now).line)
    ∧ ∀ (s : State) (c : FireCopy) (more : List Nat),
      s.dispatcher = .firing c .apply → s.pauses = 0 :: more →
      (c.desc.late = .drop ∧ c.desc.tolerance.toNat < c.lam →
          exec .fire s = .next { s with dispatcher := .firing c (.place ⟨.dropped, none⟩), pauses := more })
        ∧ (¬ (c.desc.late = .drop ∧ c.desc.tolerance.toNat < c.lam) → c.desc.action = .notify ∨ c.desc.line = none →
          exec .fire s = .next { s with dispatcher := .firing c (.place ⟨.done, none⟩), pauses := more })
        ∧ ∀ (l : LineId) (r : ActionResult), ¬ (c.desc.late = .drop ∧ c.desc.tolerance.toNat < c.lam) →
          c.desc.action ≠ .notify → c.desc.line = some l →
          r = (s.line l).act c.desc.action c.slot c.desc.width c.fireTick →
          ∃ a : Applied, exec .fire s = .next { s with
              lineUnit := { s.lineUnit with lines := s.lineUnit.lines.set l r.line }
              queue := (if r.patternEmpty = true then queueAfter s.now s.queue ⟨s.now, .patternEmpty l⟩ else s.queue)
              dispatcher := .firing c (.place a), pauses := more }
            ∧ (r.answer = .done → a = ⟨.done, none⟩) ∧ (r.answer = .underrun → a = ⟨.underrun, none⟩)
            ∧ (r.answer = .blocked → a = ⟨.blocked, none⟩)
            ∧ ∀ p, r.answer = .preempted p → a = ⟨.preempt, some p⟩

/-- The chain stage: an applied occurrence arms a LOADED target at its nominal due time plus the chain offset, afresh and by
the target's own group; a dropped one, and a target in any other state, arms nothing. A completing slot that chains to
itself is armed again, or with auto-release is EMPTY. The target's entry is inserted into the list that stage five leaves,
the fired slot's new entry in it, behind every entry not later (R8, R29, R46, R48, R49). First for a fire that nothing falls
into, then for the stage alone. -/
def Obligations.FireChains : Prop :=
  (∀ (s : State) (e : Entry) (rest : List Entry) (n : Nat) (j : SlotId) (due : Tick) (r5 base : Slot) (list5 : List Entry),
    DueHead s e rest → RunsWhole s 5 → ListMatchesSlots s → Skips s e n → (s.slot e.slot).desc.chain = some j →
    due = (s.slot e.slot).due + (s.slot e.slot).desc.chainOffset.setWidth 32 →
    (Completes (s.slot e.slot) n → r5 = completedRecord (s.slot e.slot) n ∧ list5 = rest) →
    (¬ Completes (s.slot e.slot) n →
      r5 = placedRecord (rearmedRecord (s.slot e.slot) n) (flagOf s e.slot) s.now
        ∧ list5 = placedList s rest e.slot (laterDue (s.slot e.slot) n) (flagOf s e.slot)) →
    base = (if j = e.slot then r5 else s.slot j) →
    ∃ t : State, exec .fire s = .next t
      ∧ (j ≠ e.slot → ¬ Dropped s e → (s.slot j).state = .loaded →
          t.slot j = placedRecord (freshRun (s.slot j) due) (flagOf s j) s.now
            ∧ t.listed j = !(flagOf s j))
      ∧ (j ≠ e.slot → Dropped s e ∨ (s.slot j).state ≠ .loaded → t.slot j = s.slot j)
      ∧ (j = e.slot → ¬ Dropped s e → Completes (s.slot e.slot) n →
          (s.slot e.slot).desc.autoRelease = false →
          t.slot e.slot =
              placedRecord (freshRun (completedRecord (s.slot e.slot) n) due) (flagOf s e.slot) s.now
            ∧ t.plist = placedList s rest e.slot due (flagOf s e.slot))
      ∧ (j = e.slot → Completes (s.slot e.slot) n → (s.slot e.slot).desc.autoRelease = true →
          t.slot e.slot = Slot.cleared ∧ t.plist = rest)
      ∧ (¬ Dropped s e → TargetLoaded s e j n →
          t.slot j = placedRecord (freshRun base due) (flagOf s j) s.now
            ∧ t.plist = placedList { s with slots := s.slots.set e.slot r5 } list5 j due (flagOf s j))
      ∧ (Dropped s e ∨ ¬ TargetLoaded s e j n → t.slot j = base ∧ t.plist = list5))
    ∧ ∀ (s : State) (c : FireCopy) (a : Applied) (last : Bool) (skips : Nat) (more : List Nat),
      s.dispatcher = .firing c (.chain a last skips) → s.pauses = 0 :: more → ListMatchesSlots s →
      (a.outcome = .dropped ∨ c.desc.chain = none →
          exec .fire s = .next { s with dispatcher := .firing c (.notify a last skips none), pauses := more })
        ∧ ∀ (j : SlotId) (due : Tick), a.outcome ≠ .dropped → c.desc.chain = some j →
          due = c.nominal + c.desc.chainOffset.setWidth 32 →
          ((s.slot j).state = .loaded → exec .fire s = .next { s with
              slots := s.slots.set j (placedRecord (freshRun (s.slot j) due) (flagOf s j) c.fireTick)
              plist := placedList s s.plist j due (flagOf s j)
              dispatcher := .firing c (.notify a last skips none), pauses := more })
            ∧ ((s.slot j).state ≠ .loaded → exec .fire s = .next { s with
              dispatcher := .firing c (.notify a last skips (some j)), pauses := more })

/-- The posts of one fire, in their order: PATTERN_EMPTY where a SHIFT took the last bit, FIRE where the notify field calls
for it, CHAIN_MISS where an applied occurrence's target was not LOADED. FIRE carries the fire tick, the slot, the line, the
lateness or the preempted slot, and the skip count (R50, R51, R65). First for a fire that nothing falls into, then for the
notify stage and the CHAIN_MISS after it, each alone, stamped with the fire tick as it was taken (R53, R132); that a load of
T leaves the stamp of CHAIN_MISS too is the model's reading (log 4). -/
def Obligations.FireReports : Prop :=
  (∀ (s : State) (e : Entry) (rest : List Entry) (n : Nat),
    DueHead s e rest → RunsWhole s 5 → ListMatchesSlots s → Skips s e n →
    ∃ (t : State) (empties fires misses : List Notification), exec .fire s = .next t
      ∧ t.queue = queueAfterAll s.now s.queue (empties ++ fires ++ misses)
      ∧ (empties = [] ∨ ∃ l, (s.slot e.slot).desc.line = some l ∧ empties = [⟨s.now, .patternEmpty l⟩])
      ∧ (∀ l, (s.slot e.slot).desc.line = some l →
          (empties ≠ [] ↔ ¬ Dropped s e ∧ (s.slot e.slot).desc.action = .shift ∧ (s.line l).mode = .normal
            ∧ (s.line l).current.count = 1 ∧ (s.line l).next = none))
      ∧ ((s.slot e.slot).desc.notify = .none → fires = [])
      ∧ ((s.slot e.slot).desc.notify = .last → ¬ Completes (s.slot e.slot) n → fires = [])
      ∧ ((s.slot e.slot).desc.notify = .each
            ∨ ((s.slot e.slot).desc.notify = .last ∧ Completes (s.slot e.slot) n) →
          ∃ r : FireReport, fires = [⟨s.now, .fire r⟩]
            ∧ r.slot = e.slot ∧ r.line = (s.slot e.slot).desc.line
            ∧ (r.late = true ↔ s.entryDist s.now e < 0)
            ∧ (r.last = true ↔ Completes (s.slot e.slot) n)
            ∧ r.skips.toNat = min n 65535
            ∧ (r.outcome = .dropped ↔ Dropped s e)
            ∧ (r.outcome ≠ .preempt → (r.aux.toNat : Int) = -(s.entryDist s.now e))
            ∧ (¬ Dropped s e → (s.slot e.slot).desc.action = .notify → r.outcome = .done)
            ∧ ∀ l answer, ¬ Dropped s e → (s.slot e.slot).desc.action ≠ .notify →
              (s.slot e.slot).desc.line = some l →
              ((s.line l).act (s.slot e.slot).desc.action e.slot (s.slot e.slot).desc.width s.now).answer = answer →
              (answer = .done → r.outcome = .done) ∧ (answer = .underrun → r.outcome = .underrun)
                ∧ (answer = .blocked → r.outcome = .blocked)
                ∧ ∀ p, answer = .preempted p → r.outcome = .preempt ∧ r.aux.toNat = p.val)
      ∧ ((s.slot e.slot).desc.chain = none → misses = [])
      ∧ ∀ j, (s.slot e.slot).desc.chain = some j →
        (Dropped s e ∨ TargetLoaded s e j n → misses = [])
          ∧ (¬ Dropped s e → ¬ TargetLoaded s e j n → misses = [⟨s.now, .chainMiss e.slot j⟩]))
    ∧ (∀ (s : State) (c : FireCopy) (a : Applied) (last : Bool) (skips : Nat) (missed : Option SlotId) (more : List Nat)
        (r : FireReport) (d : Dispatcher),
      s.dispatcher = .firing c (.notify a last skips missed) → s.pauses = 0 :: more →
      (missed = none → d = .idle) → (∀ j, missed = some j → d = .firing c (.miss j)) →
      r = { slot := c.slot, line := c.desc.line, late := decide (c.lam ≠ 0), last := last, outcome := a.outcome
            aux := (match a.preempted with | some p => BitVec.ofNat 32 p.val | none => BitVec.ofNat 32 c.lam)
            skips := BitVec.ofNat 16 (min skips 65535) } →
      (c.desc.notify = .none ∨ c.desc.notify = .last ∧ last = false →
          exec .fire s = .next { s with dispatcher := d, pauses := more })
        ∧ (c.desc.notify = .each ∨ c.desc.notify = .last ∧ last = true →
          exec .fire s = .next { s with
            queue := queueAfter s.now s.queue ⟨c.stamp, .fire r⟩, dispatcher := d, pauses := more }))
    ∧ ∀ (s : State) (c : FireCopy) (j : SlotId) (more : List Nat),
      s.dispatcher = .firing c (.miss j) → s.pauses = 0 :: more →
      exec .fire s = .next { s with
        queue := queueAfter s.now s.queue ⟨c.stamp, .chainMiss c.slot j⟩, dispatcher := .idle, pauses := more }

/-! ### Capture inputs (07) -/

/-- A change of an input: followed without an edge while the filter does not work; away from the stable level it begins a
qualification, or with F at 0 is accepted at once; a return ends the qualification (R117). An accepted edge makes the
trigger arm of the channel's last edge first, where that is still to come, and where the world lets nothing in before its
own trigger arm it is followed by what the row ACCEPTANCE then does: where others fall between the two (R122) is the model's
choice (log 24). -/
def Obligations.CaptureInputChanges : Prop :=
  ∀ (s : State) (k : ChannelId) (level : Bool) (changed : State), level = !s.inputLevel k →
    changed = { s with pins := { s.pins with k := s.pins.k.set k level } } →
    (s.timebase.running = false ∨ (s.channel k).edge = .off →
        exec (.captureInputChange k) s = .next { changed with
          capture := { s.capture with
            channels := s.capture.channels.set k { s.channel k with filter := .stable level } } })
      ∧ (s.timebase.running = true → (s.channel k).edge ≠ .off →
          ((s.channel k).filter = .stable (!level) → (s.channel k).filterLength ≠ 0 →
              exec (.captureInputChange k) s = .next { changed with
                capture := { s.capture with
                  channels := s.capture.channels.set k { s.channel k with
                    filter := .qualifying (!level) s.now (s.now + (s.channel k).filterLength.setWidth 32) } } })
            ∧ ((s.channel k).filter = .stable (!level) → (s.channel k).filterLength = 0 →
              ((s.channel k).arm = none → ListMatchesSlots s → TriggerFree s k →
                  ∃ t : State, exec (.captureInputChange k) s = .next t ∧ EdgeHandled changed t k level s.now)
                ∧ (∀ u : State, (s.channel k).arm ≠ none → exec (.acceptance k) s = .next u →
                  exec (.captureInputChange k) s = exec (.captureInputChange k) u))
            ∧ ∀ l a b, (s.channel k).filter = .qualifying l a b →
              exec (.captureInputChange k) s = .next { changed with
                capture := { s.capture with
                  channels := s.capture.channels.set k { s.channel k with filter := .stable l } } })
      ∧ ∀ m : State, (s.channel k).arm = none → s.pauses.head? ≠ some 0 →
        exec (.captureInputChange k) { s with pauses := 0 :: s.pauses.tail } = .next m → (m.channel k).arm ≠ none →
        exec (.captureInputChange k) s = exec (.acceptance k) m

/-- A due acceptance accepts the change with the candidate stamp; a filter that is STABLE, or whose acceptance time is not
due, is left as it is (R118, R122 to R124). Where the channel's last edge has its trigger arm still to come, the row makes
that arm instead, waiting for the fire of the slot where one is in progress (R9); that this row makes it, and which happenings
fall before it, is the model's choice (log 24). -/
def Obligations.AcceptanceHandles : Prop :=
  ∀ (s : State) (k : ChannelId),
    ((s.channel k).arm = none →
      (∀ l, (s.channel k).filter = .stable l → exec (.acceptance k) s = .next s)
        ∧ (∀ l a b, (s.channel k).filter = .qualifying l a b →
          (s.timebase.running = false ∨ 0 < signedDistance b s.now → exec (.acceptance k) s = .next s)
            ∧ (s.timebase.running = true → signedDistance b s.now ≤ 0 → ListMatchesSlots s → TriggerFree s k →
              ∃ t : State, exec (.acceptance k) s = .next t ∧ EdgeHandled s t k (!l) a))
        ∧ ∀ m : State, s.pauses.head? ≠ some 0 →
          exec (.acceptance k) { s with pauses := 0 :: s.pauses.tail } = .next m → (m.channel k).arm ≠ none →
          exec (.acceptance k) s = exec (.acceptance k) m)
      ∧ ∀ arm : TriggerArm, (s.channel k).arm = some arm →
        (ListMatchesSlots s → NotFired s arm.slot →
          ∃ t : State, exec (.acceptance k) s = .next t
            ∧ t = { s with
                slots := t.slots, plist := t.plist
                queue := queueAfterAll s.now s.queue (triggerPosts s k arm.slot)
                capture := { s.capture with
                  channels := s.capture.channels.set k { s.channel k with arm := none } } }
            ∧ TriggerArmed s t arm.slot arm.due)
          ∧ ∀ u : State, s.firedSlot = some arm.slot → FireEnded s u →
            exec (.acceptance k) s = exec (.acceptance k) u

/-- A channel configuration commit: the selected channel takes the four committed fields; a qualification goes on, is
abandoned where the edge select becomes OFF, or moves its acceptance time with F, the edge accepted at once where that
time is due (R121, R155, R162). As at every accepted edge, a trigger arm still to come is made first, and other happenings
may fall before the edge's own (R122); where they do is the model's choice (log 24). -/
def Obligations.ChannelConfigurationCommits : Prop :=
  ∀ (s : State) (v : Byte) (k : ChannelId) (x : BitVec 48) (new : Channel) (committed : State),
    WritesAt s 0x53 → k.val = s.window.capSel.toNat → x = putByte s.window.hold.capConfig 5 v →
    new = { s.channel k with
      edge := edgeSelectOf (x.extractLsb' 0 2), filterLength := x.extractLsb' 8 8
      trigger := (if h : (x.extractLsb' 16 8).toNat < 64 then some ⟨(x.extractLsb' 16 8).toNat, h⟩ else none)
      offset := x.extractLsb' 24 24 } →
    committed = { s with
      window := { s.window with hold := { s.window.hold with capConfig := x } }, port := portPast s
      capture := { s.capture with channels := s.capture.channels.set k new } } →
    (∀ l, (s.channel k).filter = .stable l → exec (.channelConfigurationCommit v) s = .next committed)
      ∧ (∀ l a b, (s.channel k).filter = .qualifying l a b →
        (new.edge = .off → exec (.channelConfigurationCommit v) s = .next { committed with
            capture := { s.capture with
              channels := s.capture.channels.set k { new with filter := .stable (s.inputLevel k) } } })
          ∧ (new.edge ≠ .off → new.filterLength = (s.channel k).filterLength →
            exec (.channelConfigurationCommit v) s = .next committed)
          ∧ (new.edge ≠ .off → new.filterLength ≠ (s.channel k).filterLength →
            (s.timebase.running = false ∨ 0 < signedDistance (a + new.filterLength.setWidth 32) s.now →
                exec (.channelConfigurationCommit v) s = .next { committed with
                  capture := { s.capture with
                    channels := s.capture.channels.set k { new with
                      filter := .qualifying l a (a + new.filterLength.setWidth 32) } } })
              ∧ (s.timebase.running = true → signedDistance (a + new.filterLength.setWidth 32) s.now ≤ 0 →
                ((s.channel k).arm = none → ListMatchesSlots s → TriggerFree committed k →
                    ∃ t : State, exec (.channelConfigurationCommit v) s = .next t
                      ∧ EdgeHandled committed t k (!l) a)
                  ∧ ∀ u : State, (s.channel k).arm ≠ none → exec (.acceptance k) s = .next u →
                    exec (.channelConfigurationCommit v) s = exec (.channelConfigurationCommit v) u)))
      ∧ ∀ m : State, (s.channel k).arm = none → s.pauses.head? ≠ some 0 →
        exec (.channelConfigurationCommit v) { s with pauses := 0 :: s.pauses.tail } = .next m →
        (m.channel k).arm ≠ none → exec (.channelConfigurationCommit v) s = exec (.acceptance k) m

/-- The pops of the two ports remove the head into the latch, or latch the empty record or entry, and read its first byte;
the bytes behind it are read from the latch, in the layouts of R163 and R164; FLUSH_CAPTURE empties the FIFO and keeps the
latch (R125, R126, R130, R135, R163, R164). The row LATCH_READ as the plain read of the bytes behind the first is the model's
choice (log 3). -/
def Obligations.PopsAndFlush : Prop :=
  (∀ s : State, ReadsAt s 0x79 →
      (s.capture.fifo = [] → exec .capturePop s = .next { s with
          capture := { s.capture with latch := ⟨none, 0⟩ }, port := { portPast s with sdo := some 0xFF } })
        ∧ ∀ r rest, s.capture.fifo = r :: rest → exec .capturePop s = .next { s with
          capture := { s.capture with fifo := rest, latch := ⟨some r, rest.length⟩ }
          port := { portPast s with sdo := some (BitVec.ofNat 8 r.channel.val) } })
    ∧ (∀ s : State, ReadsAt s 0x6D →
      (s.queue.entries = [] → exec .notificationPop s = .next { s with
          queue := { s.queue with latch := none }, port := { portPast s with sdo := some 0x00 } })
        ∧ ∀ n rest, s.queue.entries = n :: rest → exec .notificationPop s = .next { s with
          queue := { s.queue with entries := rest, latch := some n }
          port := { portPast s with sdo := some (notificationImage (some n))[0] } })
    ∧ (∀ s : State, TakesCommand s → exec .flushCapture s = .next { answered s 0x38 .ok with
        capture := { s.capture with fifo := [] } })
    ∧ (∀ (s : State) (k : Fin 12), k.val ≠ 0 → s.port.frame = .read → s.port.pointer.toNat = 0x6D + k.val →
        exec .latchRead s = .next { s with
          port := { portPast s with sdo := some (notificationImage s.queue.latch)[k] } })
    ∧ (∀ (s : State) (k : Fin 6), k.val ≠ 0 → s.port.frame = .read → s.port.pointer.toNat = 0x79 + k.val →
        exec .latchRead s = .next { s with
          port := { portPast s with sdo := some (captureImage s.capture.latch)[k] } })
    ∧ (∀ x : Vector Byte 6, x = captureImage ⟨none, 0⟩ → x[0] = 0xFF ∧ ∀ k : Fin 6, k.val ≠ 0 → x[k] = 0)
    ∧ (∀ (r : CaptureRecord) (left : Nat) (x : Vector Byte 6), x = captureImage ⟨some r, left⟩ →
        x[0].toNat = r.channel.val ∧ (x[1].getLsbD 0 = true ↔ r.edge = .fall)
          ∧ x[1].extractLsb' 4 4 = BitVec.ofNat 4 left ∧ x[5] ++ x[4] ++ x[3] ++ x[2] = r.stamp)
    ∧ (∀ x : Vector Byte 12, x = notificationImage none →
        x[0] = 0 ∧ x[1] = 0xFF ∧ x[2] = 0xFF ∧ x[3] = 0xFF ∧ ∀ k : Fin 12, 4 ≤ k.val → x[k] = 0)
    ∧ ∀ (n : Notification) (x : Vector Byte 12) (aux : BitVec 32), x = notificationImage (some n) →
      aux = x[11] ++ x[10] ++ x[9] ++ x[8] →
      x[7] ++ x[6] ++ x[5] ++ x[4] = n.stamp
        ∧ (∀ r : FireReport, n.body = .fire r →
          x[0].getLsbD 7 = true ∧ x[0].getLsbD 6 = r.last ∧ (x[0].extractLsb' 0 6).toNat = r.slot.val
            ∧ x[1].getLsbD 7 = r.late ∧ x[3] ++ x[2] = r.skips ∧ aux = r.aux
            ∧ (∀ l : LineId, r.line = some l → (x[1].extractLsb' 0 4).toNat = l.val
                ∧ (r.outcome = .done → x[1].extractLsb' 4 3 = 0) ∧ (r.outcome = .dropped → x[1].extractLsb' 4 3 = 4))
            ∧ (r.line = none → x[1].extractLsb' 0 4 = 0
                ∧ (r.outcome = .done → x[1].extractLsb' 4 3 = 5) ∧ (r.outcome = .dropped → x[1].extractLsb' 4 3 = 6))
            ∧ (r.outcome = .preempt → x[1].extractLsb' 4 3 = 1) ∧ (r.outcome = .underrun → x[1].extractLsb' 4 3 = 2)
            ∧ (r.outcome = .blocked → x[1].extractLsb' 4 3 = 3))
        ∧ (∀ i j : SlotId, n.body = .chainMiss i j →
          x[0] = 0x01 ∧ x[1].toNat = i.val ∧ x[2] = 0xFF ∧ x[3] = 0xFF ∧ aux.toNat = j.val)
        ∧ (∀ (i : SlotId) (k : ChannelId), n.body = .triggerMiss i k →
          x[0] = 0x02 ∧ x[1].toNat = i.val ∧ x[2] = 0xFF ∧ x[3].toNat = k.val ∧ aux = 0)
        ∧ (∀ l : LineId, n.body = .guardTrip l →
          x[0] = 0x03 ∧ x[1] = 0xFF ∧ x[2].toNat = l.val ∧ x[3] = 0xFF ∧ aux = 0)
        ∧ (∀ l : LineId, n.body = .patternEmpty l →
          x[0] = 0x04 ∧ x[1] = 0xFF ∧ x[2].toNat = l.val ∧ x[3] = 0xFF ∧ aux = 0)
        ∧ (n.body = .mark → x[0] = 0x05 ∧ x[1] = 0xFF ∧ x[2] = 0xFF ∧ x[3] = 0xFF ∧ aux = 0)
        ∧ (∀ old : Tick, n.body = .synced old → x[0] = 0x06 ∧ x[1] = 0xFF ∧ x[2] = 0xFF ∧ x[3] = 0xFF ∧ aux = old)
        ∧ (∀ count : Nat, n.body = .captureLevel count →
          x[0] = 0x07 ∧ x[1] = 0xFF ∧ x[2] = 0xFF ∧ x[3] = 0xFF ∧ aux = BitVec.ofNat 32 count)
        ∧ (∀ k : ChannelId, n.body = .captureLost k →
          x[0] = 0x08 ∧ x[1] = 0xFF ∧ x[2] = 0xFF ∧ x[3].toNat = k.val ∧ aux = 0)
        ∧ (∀ source : ClockSource, n.body = .clockSwitched source →
          x[0] = 0x09 ∧ x[1] = 0xFF ∧ x[2] = 0xFF ∧ x[3] = 0xFF ∧ aux = (if source = .ext then 1 else 0))
        ∧ (n.body = .clockFail → x[0] = 0x0A ∧ x[1] = 0xFF ∧ x[2] = 0xFF ∧ x[3] = 0xFF ∧ aux = 0)
        ∧ (n.body = .clockLoss → x[0] = 0x0B ∧ x[1] = 0xFF ∧ x[2] = 0xFF ∧ x[3] = 0xFF ∧ aux = 0)
        ∧ (∀ (code : Byte) (result : ResultCode), n.body = .cmdDone code result →
          x[0] = 0x0C ∧ x[1] = 0xFF ∧ x[2] = 0xFF ∧ x[3] = 0xFF
            ∧ aux.extractLsb' 0 8 = code ∧ aux.extractLsb' 8 8 = resultByte result)
        ∧ ∀ lost : BitVec 16, n.body = .overflow lost →
          x[0] = 0x0D ∧ x[2] ++ x[1] = lost ∧ x[3] = 0xFF ∧ aux = 0

/-! ### Notifications (08) -/

/-- The append rule: below 31 entries a post is appended; at 31 or 32 with an OVERFLOW entry last it is counted there,
stopping at 65,535; at 31 with any other entry last it makes an OVERFLOW entry with lost count 1 and stamp T. A post of a
kind whose enable is off changes nothing. The bounds of the queue are kept (R131, R133). -/
def Obligations.AppendRule : Prop :=
  (∀ (now : Tick) (n : Notification) (q : List Notification),
      (q.length ≤ 30 → appendPost now n q = q ++ [n])
        ∧ (∀ front stamp lost, q = front ++ [⟨stamp, .overflow lost⟩] → 31 ≤ q.length →
            appendPost now n q = front ++ [⟨stamp, .overflow (BitVec.ofNat 16 (min (lost.toNat + 1) 65535))⟩])
        ∧ (q.length = 31 → (∀ x, q.getLast? = some x → x.isOverflow = false) →
            appendPost now n q = q ++ [⟨now, .overflow 1⟩])
        ∧ (QueueSound q → n.isOverflow = false → QueueSound (appendPost now n q)))
    ∧ ∀ (s : State) (stamp : Tick) (body : NotificationBody),
      (s.queue.postMask.getLsbD body.kindCode = false → s.post stamp body = s)
        ∧ (s.queue.postMask.getLsbD body.kindCode = true → s.post stamp body = { s with
            queue := { s.queue with entries := appendPost s.now ⟨stamp, body⟩ s.queue.entries } })

/-- IRQN is asserted exactly while the queue holds an entry and the enable is on, in every state; a write of CTRL sets the
IRQ enable and, in the same byte, SYNC enable (R137, R160). -/
def Obligations.IrqnFollows : Prop :=
  (∀ s : State, s.irqnAsserted = true ↔ s.queue.entries ≠ [] ∧ s.queue.irqEnable = true)
    ∧ ∀ (s : State) (v : Byte), WritesAt s 0x64 →
      exec (.irqEnableWrite v) s = .next { s with
        timebase := { s.timebase with syncEnable := v.getLsbD 0 }
        queue := { s.queue with irqEnable := v.getLsbD 1 }, port := portPast s }

/-! ### The Command Unit (09) -/

/-- A code that names no command is taken and answered UNKNOWN; a code written while BUSY, by any row that writes CMD, is
discarded and raises COLLIDE (R141, R143). That the rows which write CMD, found BUSY, are that collision (each command's own
row, UNKNOWN_COMMAND, and REGISTER_WRITE with the pointer at 0x0E) is the model's choice (log 3). -/
def Obligations.UnknownAndCollide : Prop :=
  (∀ (s : State) (code : Byte), TakesCommand s → namesCommand code = false →
      exec (.unknownCommand code) s = .next (answered s code .unknown))
    ∧ ∀ (s : State) (w : Work) (collided : State), WritesAt s 0x0E → s.cmd.inHand = some w →
      collided = { s with cmd := { s.cmd with collide := true }, port := portPast s } →
      (∀ code, exec (.collide code) s = .next collided)
        ∧ (∀ code, exec (.unknownCommand code) s = .next collided)
        ∧ (∀ code, exec (.registerWrite code) s = .next collided)
        ∧ ∀ (c : Instr) (code : Byte), c.code = some code → exec c s = .next collided

/-- A completion writes RESULT, raises DONE, returns the unit to IDLE and posts CMD_DONE with the code and the result;
SOFT_RESET's, its tenth stage, also clears the readback record, and posts none (R144, R150). -/
def Obligations.CompletionWritesResult : Prop :=
  ∀ s : State,
    (∀ r, s.cmd.inHand = some (.finished r) →
        exec .commandCompletion s = .next { s with
          cmd := { s.cmd with inHand := none, result := r, done := true }
          queue := queueAfter s.now s.queue ⟨s.now, .cmdDone s.cmd.code r⟩ })
      ∧ (s.cmd.inHand = some (.softReset .completion) →
          exec .commandCompletion s = .next { s with
            cmd := { s.cmd with inHand := none, result := .ok, done := true, readback := Slot.cleared } })

/-- SOFT_RESET is never refused. Its first nine stages stop the Timebase, end a fire, settle the filters, and empty the FIFO,
the slots, the list, the groups, the patterns, a pending switch, the time and the queue, keeping every setting, and leave the
command in hand for its completion (R150, with R26, R36, R78, R90, R106, R115, R128, R139). First for a SOFT_RESET that
nothing falls into, then stage by stage, in R150's order: other happenings may fall between any two stages, and the row
COMMAND_COMPLETION goes on with them. Which row carries them, and where the world lets others in, is the model's choice (logs
5 and 24). -/
def Obligations.SoftResetReturnsToRest : Prop :=
  (∀ s : State, TakesCommand s →
    (RunsWhole s 8 → NoArms s → s.dispatcher = .idle →
      ∃ t : State, exec .softReset s = .next t
        ∧ t = { s with
            slots := t.slots, plist := [], groups := t.groups
            lineUnit := { s.lineUnit with lines := t.lineUnit.lines }
            timebase := { s.timebase with
              t := 0, e := 0, running := false
              phase := if s.timebase.running then none else s.timebase.phase }
            clock := t.clock, capture := { s.capture with channels := t.capture.channels, fifo := [] }
            queue := { s.queue with entries := [] }, pauses := s.pauses.tail
            cmd := cmdTaken s 0x3F (.softReset .completion), port := portPast s }
        ∧ (∀ i : SlotId, t.slot i = Slot.cleared)
        ∧ (∀ g : GroupId, t.group g = ⟨false, 0⟩)
        ∧ (∀ k : ChannelId, t.channel k = { s.channel k with filter := .stable (s.inputLevel k) })
        ∧ (s.clock.switching = .none → t.clock = s.clock)
        ∧ (∀ n, s.clock.switching = .pendingExt n →
            t.clock = { s.clock with switching := .none, monitor := .idle, gap := none })
        ∧ ∀ l : LineId,
          (t.line l).current.count = 0 ∧ (t.line l).next = none
            ∧ ((s.line l).mode ≠ .normal →
                t.line l = { s.line l with current := (t.line l).current, next := none })
            ∧ ((s.line l).mode = .normal →
                t.line l = { s.line l with
                  level := (if (s.line l).config.safe = .active then .active else .inactive)
                  driven := decide ((s.line l).config.safe ≠ .float)
                  pulse := none, current := (t.line l).current, next := none, guardCount := 0 }))
      ∧ (RunsWhole s 8 → NoArms s → ∀ u : State, FireEnded s u → exec .softReset s = exec .softReset u)
      ∧ (s.timebase.running = true → ∀ (k : ChannelId) (u : State),
          (s.channel k).arm ≠ none → (∀ j : ChannelId, j < k → (s.channel j).arm = none) →
          exec (.acceptance k) s = .next u → exec .softReset s = exec .softReset u)
      ∧ (NoArms s → ∀ more : List Nat, s.pauses = 0 :: more →
          ∃ t : State, exec .softReset s = .next t
            ∧ t = { s with
                timebase := { s.timebase with
                  running := false, phase := if s.timebase.running then none else s.timebase.phase }
                capture := { s.capture with channels := t.capture.channels }, pauses := more
                cmd := cmdTaken s 0x3F (.softReset .endOfFire), port := portPast s }
            ∧ ∀ k : ChannelId,
              ((s.timebase.running = false ∨ ∃ l, (s.channel k).filter = .stable l) → t.channel k = s.channel k)
                ∧ ∀ l a b, s.timebase.running = true → (s.channel k).filter = .qualifying l a b →
                  t.channel k = { s.channel k with filter := .stable (s.inputLevel k) })
      ∧ ∀ (n : Nat) (more : List Nat) (m : State), n ≤ 7 → s.pauses = (n + 1) :: more →
          exec .softReset { s with pauses := 0 :: n :: more } = .next m →
          ∃ u : State, exec .commandCompletion m = .next u ∧ exec .softReset s = .next { u with pauses := more })
    ∧ (∀ (s : State) (stage : ResetStage) (n : Nat) (more : List Nat) (m : State),
      s.cmd.inHand = some (.softReset stage) → stage ≠ .completion → s.pauses = (n + 1) :: more →
      exec .commandCompletion { s with pauses := 0 :: n :: more } = .next m →
      ∃ u : State, exec .commandCompletion m = .next u ∧ exec .commandCompletion s = .next { u with pauses := more })
    ∧ ∀ (s : State) (more : List Nat), s.pauses = 0 :: more →
      (s.cmd.inHand = some (.softReset .endOfFire) →
          (s.dispatcher = .idle → exec .commandCompletion s = .next { s with
              cmd := { s.cmd with inHand := some (.softReset .capture) }, pauses := more })
            ∧ ∀ u : State, FireEnded s u → exec .commandCompletion s = exec .commandCompletion u)
        ∧ (s.cmd.inHand = some (.softReset .capture) →
          ∃ t : State, exec .commandCompletion s = .next t
            ∧ t = { s with
                capture := { s.capture with channels := t.capture.channels, fifo := [] }
                cmd := { s.cmd with inHand := some (.softReset .slots) }, pauses := more }
            ∧ ∀ k : ChannelId, t.channel k = { s.channel k with filter := .stable (s.inputLevel k) })
        ∧ (s.cmd.inHand = some (.softReset .slots) →
          ∃ t : State, exec .commandCompletion s = .next t
            ∧ t = { s with
                slots := t.slots, plist := []
                cmd := { s.cmd with inHand := some (.softReset .groups) }, pauses := more }
            ∧ ∀ i : SlotId, t.slot i = Slot.cleared)
        ∧ (s.cmd.inHand = some (.softReset .groups) →
          ∃ t : State, exec .commandCompletion s = .next t
            ∧ t = { s with
                groups := t.groups, cmd := { s.cmd with inHand := some (.softReset .lines) }, pauses := more }
            ∧ ∀ g : GroupId, t.group g = ⟨false, 0⟩)
        ∧ (s.cmd.inHand = some (.softReset .lines) →
          ∃ t : State, exec .commandCompletion s = .next t
            ∧ t = { s with
                lineUnit := { s.lineUnit with lines := t.lineUnit.lines }
                cmd := { s.cmd with inHand := some (.softReset .clock) }, pauses := more }
            ∧ ∀ l : LineId,
              (t.line l).current.count = 0 ∧ (t.line l).next = none
                ∧ ((s.line l).mode ≠ .normal →
                    t.line l = { s.line l with current := (t.line l).current, next := none })
                ∧ ((s.line l).mode = .normal →
                    t.line l = { s.line l with
                      level := (if (s.line l).config.safe = .active then .active else .inactive)
                      driven := decide ((s.line l).config.safe ≠ .float)
                      pulse := none, current := (t.line l).current, next := none, guardCount := 0 }))
        ∧ (s.cmd.inHand = some (.softReset .clock) →
          (s.clock.switching = .none → exec .commandCompletion s = .next { s with
              cmd := { s.cmd with inHand := some (.softReset .time) }, pauses := more })
            ∧ ∀ n, s.clock.switching = .pendingExt n → exec .commandCompletion s = .next { s with
              clock := { s.clock with switching := .none, monitor := .idle, gap := none }
              cmd := { s.cmd with inHand := some (.softReset .time) }, pauses := more })
        ∧ (s.cmd.inHand = some (.softReset .time) → exec .commandCompletion s = .next { s with
            timebase := { s.timebase with t := 0, e := 0 }
            cmd := { s.cmd with inHand := some (.softReset .queue) }, pauses := more })
        ∧ (s.cmd.inHand = some (.softReset .queue) → exec .commandCompletion s = .next { s with
            queue := { s.queue with entries := [] }
            cmd := { s.cmd with inHand := some (.softReset .completion) }, pauses := more })

/-! ### The register window and the Serial Port (10) -/

/-- CSN falls: the port waits for an address, but not while RSTN is low. The first byte gives direction and address. CSN
rises: the port is IDLE with SDO at high impedance (R153, R154). That the row of the falling edge changes nothing while CSN is
low is the model's choice (log 2). -/
def Obligations.FramesBeginAndEnd : Prop :=
  ∀ s : State,
    (s.pins.csnLow = false → s.pins.rstnLow = false → exec .frameStart s = .next { s with
        pins := { s.pins with csnLow := true }
        port := { s.port with frame := .address, sdo := none, nextDueRead := false } })
      ∧ (s.pins.csnLow = false → s.pins.rstnLow = true → exec .frameStart s = .next { s with
          pins := { s.pins with csnLow := true } })
      ∧ (s.pins.csnLow = true → exec .frameStart s = .next s)
      ∧ (s.port.frame = .address → ∀ v : Byte,
          ∃ a : Addr, a.toNat = v.toNat % 128
            ∧ (v.toNat < 128 → exec (.addressByte v) s = .next { s with
                port := { s.port with frame := .write, pointer := a } })
            ∧ (128 ≤ v.toNat → exec (.addressByte v) s = .next { s with
                port := { s.port with frame := .read, pointer := a } }))
      ∧ exec .frameEnd s = .next { s with
          pins := { s.pins with csnLow := false }
          port := { s.port with frame := .idle, sdo := none, nextDueRead := false } }

/-- A byte written at the pointer: read-only bytes, the ports and 0x7F ignore it; a lower byte of a multi-byte field goes to
its holding byte alone; the highest commits the whole holding content; single-byte fields take it at once; at 0x0E, 0x43,
0x53 and 0x64 this row does what the row of that byte does, the model's choice (log 3). The rest is the manual's (R153, R155,
R157, R159, R160). -/
def Obligations.RegisterWrites : Prop :=
  ∀ (s : State) (v : Byte) (a : Nat) (held : Holding), s.port.frame = .write → s.port.pointer.toNat = a →
    held = heldAfter s.window.hold a v →
    ((a ≤ 0x03 ∨ 0x21 ≤ a ∧ a ≤ 0x40 ∨ 0x44 ≤ a ∧ a ≤ 0x4D ∨ 0x54 ≤ a ∧ a ≤ 0x5E ∨ 0x68 ≤ a) →
        exec (.registerWrite v) s = .next { s with port := portPast s })
      ∧ (a = 0x04 → exec (.registerWrite v) s = .next { s with
          window := { s.window with lineSel := v.extractLsb' 0 4, capSel := v.extractLsb' 4 2 }, port := portPast s })
      ∧ (a = 0x05 → exec (.registerWrite v) s = .next { s with
          window := { s.window with groupSel := v.extractLsb' 0 3 }, port := portPast s })
      ∧ (∀ k : Fin 8, a = 0x06 + k.val → exec (.registerWrite v) s = .next { s with
          cmd := { s.cmd with args := s.cmd.args.set k v }, port := portPast s })
      ∧ (a = 0x0E →
          (∀ c : Instr, c.code = some v → exec (.registerWrite v) s = exec c s)
            ∧ (namesCommand v = false → exec (.registerWrite v) s = exec (.unknownCommand v) s))
      ∧ (a = 0x0F → exec (.registerWrite v) s = .next { s with
          cmd := { s.cmd with staging := { s.cmd.staging with
            action := v.extractLsb' 0 3, late := v.extractLsb' 3 1, notify := v.extractLsb' 4 2 } }
          port := portPast s })
      ∧ (a = 0x10 → exec (.registerWrite v) s = .next { s with
          cmd := { s.cmd with staging := { s.cmd.staging with
            line := v.extractLsb' 0 5, group := v.extractLsb' 5 3 } }
          port := portPast s })
      ∧ (a = 0x1C → exec (.registerWrite v) s = .next { s with
          cmd := { s.cmd with staging := { s.cmd.staging with tolerance := v } }, port := portPast s })
      ∧ (a = 0x1D → exec (.registerWrite v) s = .next { s with
          cmd := { s.cmd with staging := { s.cmd.staging with
            chain := v.extractLsb' 0 7, autoRelease := v.extractLsb' 7 1 } }
          port := portPast s })
      ∧ ((0x11 ≤ a ∧ a ≤ 0x13 ∨ 0x15 ≤ a ∧ a ≤ 0x16 ∨ a = 0x18 ∨ a = 0x1A ∨ 0x1E ≤ a ∧ a ≤ 0x1F
            ∨ 0x41 ≤ a ∧ a ≤ 0x42 ∨ 0x4E ≤ a ∧ a ≤ 0x52 ∨ 0x5F ≤ a ∧ a ≤ 0x61 ∨ a = 0x65) →
          exec (.registerWrite v) s = .next { s with
            window := { s.window with hold := held }, port := portPast s })
      ∧ (a = 0x14 → exec (.registerWrite v) s = .next { s with
          window := { s.window with hold := held }, port := portPast s
          cmd := { s.cmd with staging := { s.cmd.staging with time := held.time } } })
      ∧ (a = 0x17 → exec (.registerWrite v) s = .next { s with
          window := { s.window with hold := held }, port := portPast s
          cmd := { s.cmd with staging := { s.cmd.staging with period := held.period } } })
      ∧ (a = 0x19 → exec (.registerWrite v) s = .next { s with
          window := { s.window with hold := held }, port := portPast s
          cmd := { s.cmd with staging := { s.cmd.staging with repeats := held.repeats } } })
      ∧ (a = 0x1B → exec (.registerWrite v) s = .next { s with
          window := { s.window with hold := held }, port := portPast s
          cmd := { s.cmd with staging := { s.cmd.staging with width := held.width } } })
      ∧ (a = 0x20 → exec (.registerWrite v) s = .next { s with
          window := { s.window with hold := held }, port := portPast s
          cmd := { s.cmd with staging := { s.cmd.staging with chainOffset := held.chainOffset } } })
      ∧ (a = 0x62 → exec (.registerWrite v) s = .next { s with
          window := { s.window with hold := held }, port := portPast s
          timebase := { s.timebase with syncVal := held.syncVal } })
      ∧ (a = 0x63 → exec (.registerWrite v) s = .next { s with
          timebase := { s.timebase with
            marker := (if h : 8 ≤ v.toNat ∧ v.toNat ≤ 31 then some ⟨v.toNat, by omega⟩ else none) }
          port := portPast s })
      ∧ (a = 0x66 → exec (.registerWrite v) s = .next { s with
          window := { s.window with hold := held }, port := portPast s
          queue := { s.queue with postMask := held.postMask.setWidth 13 } })
      ∧ (a = 0x67 → exec (.registerWrite v) s = .next { s with
          capture := { s.capture with watermark :=
            if v.toNat = 0 then 1 else if 16 < v.toNat then 16 else v.toNat }
          port := portPast s })
      ∧ (a = 0x43 → exec (.registerWrite v) s = exec (.lineConfigurationCommit v) s)
      ∧ (a = 0x53 → exec (.registerWrite v) s = exec (.channelConfigurationCommit v) s)
      ∧ (a = 0x64 → exec (.registerWrite v) s = exec (.irqEnableWrite v) s)

/-- The read of STATUS shows the eight flags and then lowers COLLIDE and LOCKVIOL; the read of a lowest byte latches its
field, in the layout of R162, and shows the byte; the read of any byte that neither latches, pops nor is STATUS changes
nothing but the port and shows what R159 to R162 give for its address, the bytes behind a lowest byte from the latch, and
PENDCOUNT from the latch only after 0x68 in the same frame (R35, R76, R89, R104, R116, R155, R156, R158 to R162). That the row
LATCH_READ stands for the read of any byte that has no row of its own is the model's choice (log 3). -/
def Obligations.StatusAndLatchReads : Prop :=
  (∀ s : State, ReadsAt s 0x02 →
      ∃ b : Byte,
        exec .statusRead s = .next { s with
            cmd := { s.cmd with collide := false }, lineUnit := { s.lineUnit with lockViol := false }
            port := { portPast s with sdo := some b } }
          ∧ b.getLsbD 0 = s.cmd.done ∧ b.getLsbD 1 = s.cmd.inHand.isSome
          ∧ b.getLsbD 2 = s.cmd.collide ∧ b.getLsbD 3 = s.lineUnit.lockViol
          ∧ b.getLsbD 4 = s.timebase.running ∧ b.getLsbD 5 = s.clock.degraded
          ∧ b.getLsbD 6 = decide (s.clock.switching ≠ .none) ∧ b.getLsbD 7 = s.pins.holdnLow)
    ∧ (∀ (w : Nat) (x : BitVec w) (k : Nat), byteOf x k = x.extractLsb' (8 * k) 8)
    ∧ (∀ (s : State) (a : Nat), s.port.frame = .read → s.port.pointer.toNat = a →
      (a = 0x59 → exec .latchRead s = .next { s with
          window := { s.window with timeLatch :=
            #v[byteOf s.timebase.t 0, byteOf s.timebase.t 1, byteOf s.timebase.t 2, byteOf s.timebase.t 3,
               byteOf s.timebase.e 0, byteOf s.timebase.e 1] }
          port := { portPast s with sdo := some (byteOf s.timebase.t 0) } })
        ∧ (∀ due : Tick, a = 0x68 → (s.plist = [] → due = 0) →
            (∀ e rest, s.plist = e :: rest → due = (s.slot e.slot).due) →
            exec .latchRead s = .next { s with
              window := { s.window with
                nextDueLatch := #v[byteOf due 0, byteOf due 1, byteOf due 2, byteOf due 3]
                pendCountLatch := BitVec.ofNat 8 s.plist.length }
              port := { portPast s with nextDueRead := true, sdo := some (byteOf due 0) } })
        ∧ (a = 0x44 → ∃ x : Vector Byte 10,
            exec .latchRead s = .next { s with
                window := { s.window with lineStatLatch := x }, port := { portPast s with sdo := some x[0] } }
              ∧ ∀ l : Line, l = s.line ⟨s.window.lineSel.toNat, s.window.lineSel.isLt⟩ →
                (l.mode = .off → x[0].extractLsb' 0 2 = 0 ∧ x[0].extractLsb' 2 2 = 0)
                  ∧ (l.mode = .normal → x[0].extractLsb' 0 2 = 1 ∧ x[0].extractLsb' 2 2 = 0)
                  ∧ (l.mode = .tripped → x[0].extractLsb' 0 2 = 2 ∧ x[0].extractLsb' 2 2 = 0)
                  ∧ (l.mode = .forced .normal → x[0].extractLsb' 0 2 = 3 ∧ x[0].extractLsb' 2 2 = 1)
                  ∧ (l.mode = .forced .tripped → x[0].extractLsb' 0 2 = 3 ∧ x[0].extractLsb' 2 2 = 2)
                  ∧ (x[0].getLsbD 4 = true ↔ l.level = .active) ∧ x[0].getLsbD 5 = l.driven
                  ∧ x[0].getLsbD 6 = s.lineUnit.locked
                  ∧ (l.pulse = none → x[1] = 0xFF ∧ x[5] ++ x[4] ++ x[3] ++ x[2] = (0 : BitVec 32))
                  ∧ (∀ p, l.pulse = some p → x[1].toNat = p.owner.val ∧ x[5] ++ x[4] ++ x[3] ++ x[2] = p.release)
                  ∧ x[6] = BitVec.ofNat 8 l.current.count ∧ (l.next = none → x[7] = 0)
                  ∧ (∀ p, l.next = some p → x[7] = BitVec.ofNat 8 p.count) ∧ x[9] ++ x[8] = l.guardCount)
        ∧ (a = 0x4E → ∃ x : Vector Byte 6,
            exec .latchRead s = .next { s with
                window := { s.window with capCfgLatch := x }, port := { portPast s with sdo := some x[0] } }
              ∧ ∀ (k : ChannelId) (c : Channel), k.val = s.window.capSel.toNat → c = s.channel k →
                (c.edge = .off → x[0].extractLsb' 0 2 = 0) ∧ (c.edge = .rise → x[0].extractLsb' 0 2 = 1)
                  ∧ (c.edge = .fall → x[0].extractLsb' 0 2 = 2) ∧ (c.edge = .both → x[0].extractLsb' 0 2 = 3)
                  ∧ (∀ l, c.filter = .stable l → x[0].getLsbD 4 = false ∧ x[0].getLsbD 5 = l)
                  ∧ (∀ l t u, c.filter = .qualifying l t u → x[0].getLsbD 4 = true ∧ x[0].getLsbD 5 = l)
                  ∧ x[0].getLsbD 6 = s.inputLevel k ∧ x[1] = c.filterLength
                  ∧ (c.trigger = none → x[2] = 0xFF) ∧ (∀ i, c.trigger = some i → x[2].toNat = i.val)
                  ∧ x[5] ++ x[4] ++ x[3] = c.offset)
        ∧ (a = 0x54 → ∃ x : Vector Byte 5,
            exec .latchRead s = .next { s with
                window := { s.window with groupStatLatch := x }, port := { portPast s with sdo := some x[0] } }
              ∧ (∀ g : GroupId, x[0].getLsbD g = (s.group g).suspended)
              ∧ ∀ g : GroupId, g.val = s.window.groupSel.toNat →
                x[4] ++ x[3] ++ x[2] ++ x[1] = (s.group g).stamp)
        ∧ (a ∉ [0x02, 0x44, 0x4E, 0x54, 0x59, 0x68, 0x6D, 0x79] →
          ∃ b : Byte, exec .latchRead s = .next { s with port := { portPast s with sdo := some b } }
            ∧ b = s.byteAt a
            ∧ (a = 0x00 → b = 0x64) ∧ (a = 0x01 → b = 0x01) ∧ (a = 0x7F → b = 0)
            ∧ (a = 0x03 → (s.cmd.result = .none → b = 0) ∧ (s.cmd.result = .ok → b = 1)
                ∧ (s.cmd.result = .unknown → b = 2) ∧ (s.cmd.result = .range → b = 3)
                ∧ (s.cmd.result = .state → b = 4) ∧ (s.cmd.result = .past → b = 5) ∧ (s.cmd.result = .full → b = 6))
            ∧ (a = 0x04 → b.extractLsb' 0 4 = s.window.lineSel ∧ b.extractLsb' 4 2 = s.window.capSel
                ∧ b.extractLsb' 6 2 = 0)
            ∧ (a = 0x05 → b.extractLsb' 0 3 = s.window.groupSel ∧ b.extractLsb' 3 5 = 0)
            ∧ (∀ k : Fin 8, a = 0x06 + k.val → b = s.cmd.args[k]) ∧ (a = 0x0E → b = s.cmd.code)
            ∧ (∀ (base : Nat) (r : Staging),
                (base = 0x0F ∧ r = s.cmd.staging ∨ base = 0x21 ∧ r = stagingOf s.cmd.readback.desc) →
                (a = base → b.extractLsb' 0 3 = r.action ∧ b.extractLsb' 3 1 = r.late ∧ b.extractLsb' 4 2 = r.notify)
                  ∧ (a = base + 1 → b.extractLsb' 0 5 = r.line ∧ b.extractLsb' 5 3 = r.group)
                  ∧ (∀ k, k < 4 → a = base + 2 + k → b = byteOf r.time k)
                  ∧ (∀ k, k < 3 → a = base + 6 + k → b = byteOf r.period k)
                  ∧ (∀ k, k < 2 → a = base + 9 + k → b = byteOf r.repeats k)
                  ∧ (∀ k, k < 2 → a = base + 11 + k → b = byteOf r.width k)
                  ∧ (a = base + 13 → b = r.tolerance)
                  ∧ (a = base + 14 → b.extractLsb' 0 7 = r.chain ∧ b.extractLsb' 7 1 = r.autoRelease)
                  ∧ (∀ k, k < 3 → a = base + 15 + k → b = if r.chain = 0x7F then 0 else byteOf r.chainOffset k))
            ∧ (a = 0x21 → (s.cmd.readback.state = .empty → b.extractLsb' 6 2 = 0)
                ∧ (s.cmd.readback.state = .loaded → b.extractLsb' 6 2 = 1)
                ∧ (s.cmd.readback.state = .pending → b.extractLsb' 6 2 = 2)
                ∧ (s.cmd.readback.state = .suspended → b.extractLsb' 6 2 = 3))
            ∧ (∀ k, k < 4 → a = 0x33 + k → b = byteOf s.cmd.readback.due k)
            ∧ (∀ k, k < 4 → a = 0x37 + k → b = byteOf s.cmd.readback.remaining k)
            ∧ (∀ k, k < 2 → a = 0x3B + k → b = byteOf s.cmd.readback.repeatsLeft k)
            ∧ (∀ k, k < 2 → a = 0x3D + k → b = byteOf s.cmd.readback.occurrences k)
            ∧ (∀ k, k < 2 → a = 0x3F + k → b = byteOf s.cmd.readback.skipTotal k)
            ∧ (∀ c : LineConfig, c = (s.line ⟨s.window.lineSel.toNat, s.window.lineSel.isLt⟩).config →
                (a = 0x41 → b.getLsbD 0 = c.enabled ∧ (b.getLsbD 1 = true ↔ c.polarity = .activeLow)
                    ∧ (b.getLsbD 2 = true ↔ c.drive = .openDrain)
                    ∧ (c.safe = .inactive → b.extractLsb' 3 2 = 0) ∧ (c.safe = .active → b.extractLsb' 3 2 = 1)
                    ∧ (c.safe = .float → b.extractLsb' 3 2 = 2))
                  ∧ ∀ k, k < 2 → a = 0x42 + k → b = byteOf c.guardLimit k)
            ∧ (∀ k : Fin 10, a = 0x44 + k.val → b = s.window.lineStatLatch[k])
            ∧ (∀ k : Fin 6, a = 0x4E + k.val → b = s.window.capCfgLatch[k])
            ∧ (∀ k : Fin 5, a = 0x54 + k.val → b = s.window.groupStatLatch[k])
            ∧ (∀ k : Fin 6, a = 0x59 + k.val → b = s.window.timeLatch[k])
            ∧ (∀ k, k < 4 → a = 0x5F + k → b = byteOf s.timebase.syncVal k)
            ∧ (a = 0x63 → (s.timebase.marker = none → b = 0) ∧ ∀ m, s.timebase.marker = some m → b.toNat = m.val)
            ∧ (a = 0x64 → b.getLsbD 0 = s.timebase.syncEnable ∧ b.getLsbD 1 = s.queue.irqEnable
                ∧ (b.extractLsb' 2 4).toNat = s.timebase.prescaler.val ∧ (b.getLsbD 6 = true ↔ s.clock.source = .ext))
            ∧ (a = 0x65 → b = s.queue.postMask.extractLsb' 0 8)
            ∧ (a = 0x66 → b.extractLsb' 0 5 = s.queue.postMask.extractLsb' 8 5 ∧ b.extractLsb' 5 3 = 0)
            ∧ (a = 0x67 → b = BitVec.ofNat 8 s.capture.watermark)
            ∧ (∀ k : Fin 4, a = 0x68 + k.val → b = s.window.nextDueLatch[k])
            ∧ (a = 0x6C → (s.port.nextDueRead = true → b = s.window.pendCountLatch)
                ∧ (s.port.nextDueRead = false → b = BitVec.ofNat 8 s.plist.length))))

/-- Full reset gives every record its reset value, the pins as the board drives them with RSTN low; at its end RSTN is high
and every filter is STABLE at the level its input then has (R2, R77, R90, R105, R115, R127, R138, R151, R154). That the end
changes nothing while RSTN is high is the model's choice (log 2), and that full reset keeps the levels of the input pins, the
waiting happenings and the model's own counters is another (log 17). -/
def Obligations.FullResetAndItsEnd : Prop :=
  ∀ s : State,
    (∃ t : State, exec .fullReset s = .next t
        ∧ t = { State.reset with
            pins := { s.pins with rstnLow := true }, draws := s.draws, pauses := s.pauses, pending := s.pending
            capture := { State.reset.capture with channels := t.capture.channels } }
        ∧ ∀ k : ChannelId, t.channel k = ⟨.off, 0, none, 0, .stable (s.inputLevel k), none⟩)
      ∧ (s.pins.rstnLow = false → exec .endOfFullReset s = .next s)
      ∧ (s.pins.rstnLow = true →
          ∃ t : State, exec .endOfFullReset s = .next t
            ∧ t = { s with
                pins := { s.pins with rstnLow := false }
                capture := { s.capture with channels := t.capture.channels } }
            ∧ ∀ k : ChannelId, t.channel k = { s.channel k with filter := .stable (s.inputLevel k) })

/-- A row whose happening cannot occur in the state, since no byte completes there, no frame waits for it or no command in
hand asks for it, changes nothing: the model's choice for a queue that may hold any row (log 2). -/
def Obligations.RowsOutOfPlace : Prop :=
  ∀ s : State,
    (¬ WritesAt s 0x0E →
        (∀ (c : Instr) (code : Byte), c.code = some code → exec c s = .next s)
          ∧ ∀ code, exec (.unknownCommand code) s = .next s ∧ exec (.collide code) s = .next s)
      ∧ (∀ v, ¬ WritesAt s 0x43 → exec (.lineConfigurationCommit v) s = .next s)
      ∧ (∀ v, ¬ WritesAt s 0x53 → exec (.channelConfigurationCommit v) s = .next s)
      ∧ (∀ v, ¬ WritesAt s 0x64 → exec (.irqEnableWrite v) s = .next s)
      ∧ (∀ v, s.port.frame ≠ .write → exec (.registerWrite v) s = .next s)
      ∧ (¬ ReadsAt s 0x79 → exec .capturePop s = .next s)
      ∧ (¬ ReadsAt s 0x6D → exec .notificationPop s = .next s)
      ∧ (¬ ReadsAt s 0x02 → exec .statusRead s = .next s)
      ∧ (s.port.frame ≠ .read → exec .latchRead s = .next s)
      ∧ (∀ v, s.port.frame ≠ .address → exec (.addressByte v) s = .next s)
      ∧ ((∀ g i, s.cmd.inHand ≠ some (.suspendWalk g i)) → exec .suspendGroupVisit s = .next s)
      ∧ ((∀ g i, s.cmd.inHand ≠ some (.resumeWalk g i)) → exec .resumeGroupVisit s = .next s)
      ∧ ((∀ g i, s.cmd.inHand ≠ some (.disarmWalk g i)) → exec .disarmGroupVisit s = .next s)
      ∧ ((∀ i, s.cmd.inHand ≠ some (.safeSlots i)) → exec .safeSlotVisit s = .next s)
      ∧ ((∀ l, s.cmd.inHand ≠ some (.safeLines l)) → exec .safeLineVisit s = .next s)
      ∧ ((∀ t e, s.cmd.inHand ≠ some (.resort t e)) → exec .resortComplete s = .next s)
      ∧ ((∀ r, s.cmd.inHand ≠ some (.finished r)) → (∀ stage, s.cmd.inHand ≠ some (.softReset stage)) →
          exec .commandCompletion s = .next s)

/-- An accepted descriptor, written in the encodings of the staging record, passes LOAD's checks and stands for the same
descriptor: the encodings drop no field of it (R12, R161). -/
def Obligations.StagedDescriptorReadsBack : Prop :=
  ∀ d : Descriptor, DescriptorSound d → PassesR12 (stagingOf d) ∧ descriptorOf (stagingOf d) = some d

/-! ### What every step keeps -/

/-- The list holds exactly the PENDING slots but the one being fired until its stage five, each once, ordered by signed
distance from T, whatever happens (R27, R28). A fire in progress keeps the descriptor its slot holds until stage five, none
is in progress during a re-sort or behind the second stage of SOFT_RESET, and SOFT_RESET's fourth stage leaves every slot
EMPTY (R34, R38, R150). -/
def Obligations.EveryStepKeepsTheList : Prop :=
  ∀ s t : State, ListMatchesSlots s → ListInOrder s → FireSound s → TimebaseSound s → step s = .next t →
    ListMatchesSlots t ∧ ListInOrder t ∧ FireSound t

/-- The bounds of the slot records hold after every step (R6 to R8, R12). -/
def Obligations.EveryStepKeepsTheSlots : Prop :=
  ∀ s t : State, ListMatchesSlots s → FireSound s → SlotsSound s → step s = .next t → SlotsSound t

/-- No slot of a suspended group is PENDING except while the walk that suspended it has still to reach the slot, and no
slot of another group is SUSPENDED except while the walk that resumed it has (R81, R83). -/
def Obligations.EveryStepKeepsSuspension : Prop :=
  ∀ s t : State, FireSound s → SuspensionSound s → step s = .next t → SuspensionSound t

/-- Every line keeps the bounds of its mode: level, drive, pulse owner, patterns, guard count and the level of HOLDN (R55,
R57, R62, R65, R69, R72, R73). -/
def Obligations.EveryStepKeepsTheLines : Prop :=
  ∀ s t : State, LinesSound s → step s = .next t → LinesSound t

/-- The Timebase is STOPPED through a re-sort and SOFT_RESET, the monitor's state is fixed by the source and the switch, and
DEGRADED stands only with the internal oscillator (R91, R99, R106 to R108, R113). -/
def Obligations.EveryStepKeepsTheClocks : Prop :=
  ∀ s t : State, TimebaseSound s → ClockSound s.clock → step s = .next t → TimebaseSound t ∧ ClockSound t.clock

/-- The filters follow their inputs, no trigger arm is still to come while the Timebase is STOPPED, the FIFO holds at most 16
records, the watermark is 1 to 16 (R34, R117, R123, R125). -/
def Obligations.EveryStepKeepsTheCaptures : Prop :=
  ∀ s t : State, ChannelsSound s → FifoSound s → step s = .next t → ChannelsSound t ∧ FifoSound t

/-- The queue holds at most 32 entries, any entry in the 32nd place is an OVERFLOW entry and no two of those stand next to
each other; a frame is in progress only while CSN is low and RSTN high, and SDO drives only in READ (R133, R153, R154). -/
def Obligations.EveryStepKeepsQueueAndPort : Prop :=
  ∀ s t : State, QueueSound s.queue.entries → PortSound s → step s = .next t →
    QueueSound t.queue.entries ∧ PortSound t

/-- While the line lock is in force every line keeps its five configuration fields, and the lock stays in force, through
every step but full reset (R59). -/
def Obligations.LockKeepsConfiguration : Prop :=
  ∀ s t : State, s.lineUnit.locked = true → s.pending.head? ≠ some .fullReset → step s = .next t →
    t.lineUnit.locked = true ∧ ∀ l : LineId, (t.line l).config = (s.line l).config

/-- Each field of the Timebase changes only by what R91 names: T and E by counting, SETTIME and the resets, T also by a SYNC
edge; the prescaler by START and full reset; the run state by START, STOP, SOFT_RESET and full reset; marker select, SYNC
enable and SYNCVAL by writes of their bytes and full reset. The prescaler phase changes at a tick, at START, STOP, SOFT_RESET
and full reset, at an honoured SYNC edge and at a handover between clock sources (the confirming REFCLK edge, SWITCH_CLOCK
INT, the fallback), and is then nothing counted while RUNNING and none while STOPPED (R93, R111). A SOFT_RESET that other
happenings fall into takes its stage on the Timebase by the row COMMAND_COMPLETION, the model's choice (logs 5 and 24). -/
def Obligations.TimebaseChangesOnlyAsStated : Prop :=
  ∀ (s t : State) (c : Instr) (rest : List Instr), s.pending = c :: rest → step s = .next t → c ≠ .fullReset →
    (t.timebase.t ≠ s.timebase.t →
        c = .tick ∨ c = .syncEdge ∨ c = .resortComplete ∨ GivesCommand s c 0x22 ∨ GivesCommand s c 0x3F
          ∨ (c = .commandCompletion ∧ ∃ stage, s.cmd.inHand = some (.softReset stage)))
      ∧ (t.timebase.e ≠ s.timebase.e →
        c = .tick ∨ c = .resortComplete ∨ GivesCommand s c 0x22 ∨ GivesCommand s c 0x3F
          ∨ (c = .commandCompletion ∧ ∃ stage, s.cmd.inHand = some (.softReset stage)))
      ∧ (t.timebase.prescaler ≠ s.timebase.prescaler → GivesCommand s c 0x20)
      ∧ (t.timebase.running ≠ s.timebase.running →
        GivesCommand s c 0x20 ∨ GivesCommand s c 0x21 ∨ GivesCommand s c 0x3F)
      ∧ (t.timebase.marker ≠ s.timebase.marker → WritesAt s 0x63 ∧ ∃ v, c = .registerWrite v)
      ∧ (t.timebase.syncEnable ≠ s.timebase.syncEnable →
        WritesAt s 0x64 ∧ ∃ v, c = .registerWrite v ∨ c = .irqEnableWrite v)
      ∧ (t.timebase.syncVal ≠ s.timebase.syncVal → WritesAt s 0x62 ∧ ∃ v, c = .registerWrite v)
      ∧ (t.timebase.phase ≠ s.timebase.phase →
        t.timebase.phase = (if t.timebase.running then some 0 else none)
          ∧ (c = .tick ∨ c = .syncEdge ∨ GivesCommand s c 0x20 ∨ GivesCommand s c 0x21 ∨ GivesCommand s c 0x3F
            ∨ (t.clock.source = .ext ∧ c = .refclkEdge)
            ∨ (t.clock.source = .int ∧ (c = .gapTooLong ∨ GivesCommand s c 0x28))))

/-- While a re-sort is in flight no step inserts into the list or removes from it, but the end of the re-sort and full
reset (R34). -/
def Obligations.NoInsertionDuringResort : Prop :=
  ∀ (s t : State) (time : Tick) (epoch : BitVec 16),
    s.cmd.inHand = some (.resort time epoch) → TimebaseSound s → FireSound s → ChannelsSound s →
    s.pending.head? ≠ some .resortComplete → s.pending.head? ≠ some .fullReset →
    step s = .next t → t.plist = s.plist ∧ ∀ i : SlotId, t.slot i = s.slot i

end Statements
end

