-- ==== Sys2Proof/Laws/State.lean ====
section
/-! SUPPORT. One lemma per field per update of State, each true by unfolding the update, so that no later proof
unfolds a record update; then the reads of single records. -/

namespace Sys2Proof.Machine

/-- The entry of a tabulated vector. -/
@[simp] theorem tabulate_getElem {n : Nat} {α : Type} (f : Fin n → α) (i : Nat) (h : i < n) :
    (tabulate f)[i] = f ⟨i, h⟩ := by
  simp [tabulate]

variable (s : State)

/-! ### withSlots -/

@[simp] theorem State.withSlots_slots (x : Vector Slot 64) : (s.withSlots x).slots = x := rfl
@[simp] theorem State.withSlots_plist (x : Vector Slot 64) : (s.withSlots x).plist = s.plist := rfl
@[simp] theorem State.withSlots_dispatcher (x : Vector Slot 64) : (s.withSlots x).dispatcher = s.dispatcher := rfl
@[simp] theorem State.withSlots_lineUnit (x : Vector Slot 64) : (s.withSlots x).lineUnit = s.lineUnit := rfl
@[simp] theorem State.withSlots_groups (x : Vector Slot 64) : (s.withSlots x).groups = s.groups := rfl
@[simp] theorem State.withSlots_timebase (x : Vector Slot 64) : (s.withSlots x).timebase = s.timebase := rfl
@[simp] theorem State.withSlots_clock (x : Vector Slot 64) : (s.withSlots x).clock = s.clock := rfl
@[simp] theorem State.withSlots_capture (x : Vector Slot 64) : (s.withSlots x).capture = s.capture := rfl
@[simp] theorem State.withSlots_queue (x : Vector Slot 64) : (s.withSlots x).queue = s.queue := rfl
@[simp] theorem State.withSlots_cmd (x : Vector Slot 64) : (s.withSlots x).cmd = s.cmd := rfl
@[simp] theorem State.withSlots_window (x : Vector Slot 64) : (s.withSlots x).window = s.window := rfl
@[simp] theorem State.withSlots_port (x : Vector Slot 64) : (s.withSlots x).port = s.port := rfl
@[simp] theorem State.withSlots_pins (x : Vector Slot 64) : (s.withSlots x).pins = s.pins := rfl
@[simp] theorem State.withSlots_draws (x : Vector Slot 64) : (s.withSlots x).draws = s.draws := rfl
@[simp] theorem State.withSlots_pauses (x : Vector Slot 64) : (s.withSlots x).pauses = s.pauses := rfl
@[simp] theorem State.withSlots_pending (x : Vector Slot 64) : (s.withSlots x).pending = s.pending := rfl

/-! ### withPlist -/

@[simp] theorem State.withPlist_slots (x : List Entry) : (s.withPlist x).slots = s.slots := rfl
@[simp] theorem State.withPlist_plist (x : List Entry) : (s.withPlist x).plist = x := rfl
@[simp] theorem State.withPlist_dispatcher (x : List Entry) : (s.withPlist x).dispatcher = s.dispatcher := rfl
@[simp] theorem State.withPlist_lineUnit (x : List Entry) : (s.withPlist x).lineUnit = s.lineUnit := rfl
@[simp] theorem State.withPlist_groups (x : List Entry) : (s.withPlist x).groups = s.groups := rfl
@[simp] theorem State.withPlist_timebase (x : List Entry) : (s.withPlist x).timebase = s.timebase := rfl
@[simp] theorem State.withPlist_clock (x : List Entry) : (s.withPlist x).clock = s.clock := rfl
@[simp] theorem State.withPlist_capture (x : List Entry) : (s.withPlist x).capture = s.capture := rfl
@[simp] theorem State.withPlist_queue (x : List Entry) : (s.withPlist x).queue = s.queue := rfl
@[simp] theorem State.withPlist_cmd (x : List Entry) : (s.withPlist x).cmd = s.cmd := rfl
@[simp] theorem State.withPlist_window (x : List Entry) : (s.withPlist x).window = s.window := rfl
@[simp] theorem State.withPlist_port (x : List Entry) : (s.withPlist x).port = s.port := rfl
@[simp] theorem State.withPlist_pins (x : List Entry) : (s.withPlist x).pins = s.pins := rfl
@[simp] theorem State.withPlist_draws (x : List Entry) : (s.withPlist x).draws = s.draws := rfl
@[simp] theorem State.withPlist_pauses (x : List Entry) : (s.withPlist x).pauses = s.pauses := rfl
@[simp] theorem State.withPlist_pending (x : List Entry) : (s.withPlist x).pending = s.pending := rfl

/-! ### withDispatcher -/

@[simp] theorem State.withDispatcher_slots (x : Dispatcher) : (s.withDispatcher x).slots = s.slots := rfl
@[simp] theorem State.withDispatcher_plist (x : Dispatcher) : (s.withDispatcher x).plist = s.plist := rfl
@[simp] theorem State.withDispatcher_dispatcher (x : Dispatcher) : (s.withDispatcher x).dispatcher = x := rfl
@[simp] theorem State.withDispatcher_lineUnit (x : Dispatcher) : (s.withDispatcher x).lineUnit = s.lineUnit := rfl
@[simp] theorem State.withDispatcher_groups (x : Dispatcher) : (s.withDispatcher x).groups = s.groups := rfl
@[simp] theorem State.withDispatcher_timebase (x : Dispatcher) : (s.withDispatcher x).timebase = s.timebase := rfl
@[simp] theorem State.withDispatcher_clock (x : Dispatcher) : (s.withDispatcher x).clock = s.clock := rfl
@[simp] theorem State.withDispatcher_capture (x : Dispatcher) : (s.withDispatcher x).capture = s.capture := rfl
@[simp] theorem State.withDispatcher_queue (x : Dispatcher) : (s.withDispatcher x).queue = s.queue := rfl
@[simp] theorem State.withDispatcher_cmd (x : Dispatcher) : (s.withDispatcher x).cmd = s.cmd := rfl
@[simp] theorem State.withDispatcher_window (x : Dispatcher) : (s.withDispatcher x).window = s.window := rfl
@[simp] theorem State.withDispatcher_port (x : Dispatcher) : (s.withDispatcher x).port = s.port := rfl
@[simp] theorem State.withDispatcher_pins (x : Dispatcher) : (s.withDispatcher x).pins = s.pins := rfl
@[simp] theorem State.withDispatcher_draws (x : Dispatcher) : (s.withDispatcher x).draws = s.draws := rfl
@[simp] theorem State.withDispatcher_pauses (x : Dispatcher) : (s.withDispatcher x).pauses = s.pauses := rfl
@[simp] theorem State.withDispatcher_pending (x : Dispatcher) : (s.withDispatcher x).pending = s.pending := rfl

/-! ### withLineUnit -/

@[simp] theorem State.withLineUnit_slots (x : LineUnit) : (s.withLineUnit x).slots = s.slots := rfl
@[simp] theorem State.withLineUnit_plist (x : LineUnit) : (s.withLineUnit x).plist = s.plist := rfl
@[simp] theorem State.withLineUnit_dispatcher (x : LineUnit) : (s.withLineUnit x).dispatcher = s.dispatcher := rfl
@[simp] theorem State.withLineUnit_lineUnit (x : LineUnit) : (s.withLineUnit x).lineUnit = x := rfl
@[simp] theorem State.withLineUnit_groups (x : LineUnit) : (s.withLineUnit x).groups = s.groups := rfl
@[simp] theorem State.withLineUnit_timebase (x : LineUnit) : (s.withLineUnit x).timebase = s.timebase := rfl
@[simp] theorem State.withLineUnit_clock (x : LineUnit) : (s.withLineUnit x).clock = s.clock := rfl
@[simp] theorem State.withLineUnit_capture (x : LineUnit) : (s.withLineUnit x).capture = s.capture := rfl
@[simp] theorem State.withLineUnit_queue (x : LineUnit) : (s.withLineUnit x).queue = s.queue := rfl
@[simp] theorem State.withLineUnit_cmd (x : LineUnit) : (s.withLineUnit x).cmd = s.cmd := rfl
@[simp] theorem State.withLineUnit_window (x : LineUnit) : (s.withLineUnit x).window = s.window := rfl
@[simp] theorem State.withLineUnit_port (x : LineUnit) : (s.withLineUnit x).port = s.port := rfl
@[simp] theorem State.withLineUnit_pins (x : LineUnit) : (s.withLineUnit x).pins = s.pins := rfl
@[simp] theorem State.withLineUnit_draws (x : LineUnit) : (s.withLineUnit x).draws = s.draws := rfl
@[simp] theorem State.withLineUnit_pauses (x : LineUnit) : (s.withLineUnit x).pauses = s.pauses := rfl
@[simp] theorem State.withLineUnit_pending (x : LineUnit) : (s.withLineUnit x).pending = s.pending := rfl

/-! ### withGroups -/

@[simp] theorem State.withGroups_slots (x : Vector Group 8) : (s.withGroups x).slots = s.slots := rfl
@[simp] theorem State.withGroups_plist (x : Vector Group 8) : (s.withGroups x).plist = s.plist := rfl
@[simp] theorem State.withGroups_dispatcher (x : Vector Group 8) : (s.withGroups x).dispatcher = s.dispatcher := rfl
@[simp] theorem State.withGroups_lineUnit (x : Vector Group 8) : (s.withGroups x).lineUnit = s.lineUnit := rfl
@[simp] theorem State.withGroups_groups (x : Vector Group 8) : (s.withGroups x).groups = x := rfl
@[simp] theorem State.withGroups_timebase (x : Vector Group 8) : (s.withGroups x).timebase = s.timebase := rfl
@[simp] theorem State.withGroups_clock (x : Vector Group 8) : (s.withGroups x).clock = s.clock := rfl
@[simp] theorem State.withGroups_capture (x : Vector Group 8) : (s.withGroups x).capture = s.capture := rfl
@[simp] theorem State.withGroups_queue (x : Vector Group 8) : (s.withGroups x).queue = s.queue := rfl
@[simp] theorem State.withGroups_cmd (x : Vector Group 8) : (s.withGroups x).cmd = s.cmd := rfl
@[simp] theorem State.withGroups_window (x : Vector Group 8) : (s.withGroups x).window = s.window := rfl
@[simp] theorem State.withGroups_port (x : Vector Group 8) : (s.withGroups x).port = s.port := rfl
@[simp] theorem State.withGroups_pins (x : Vector Group 8) : (s.withGroups x).pins = s.pins := rfl
@[simp] theorem State.withGroups_draws (x : Vector Group 8) : (s.withGroups x).draws = s.draws := rfl
@[simp] theorem State.withGroups_pauses (x : Vector Group 8) : (s.withGroups x).pauses = s.pauses := rfl
@[simp] theorem State.withGroups_pending (x : Vector Group 8) : (s.withGroups x).pending = s.pending := rfl

/-! ### withTimebase -/

@[simp] theorem State.withTimebase_slots (x : Timebase) : (s.withTimebase x).slots = s.slots := rfl
@[simp] theorem State.withTimebase_plist (x : Timebase) : (s.withTimebase x).plist = s.plist := rfl
@[simp] theorem State.withTimebase_dispatcher (x : Timebase) : (s.withTimebase x).dispatcher = s.dispatcher := rfl
@[simp] theorem State.withTimebase_lineUnit (x : Timebase) : (s.withTimebase x).lineUnit = s.lineUnit := rfl
@[simp] theorem State.withTimebase_groups (x : Timebase) : (s.withTimebase x).groups = s.groups := rfl
@[simp] theorem State.withTimebase_timebase (x : Timebase) : (s.withTimebase x).timebase = x := rfl
@[simp] theorem State.withTimebase_clock (x : Timebase) : (s.withTimebase x).clock = s.clock := rfl
@[simp] theorem State.withTimebase_capture (x : Timebase) : (s.withTimebase x).capture = s.capture := rfl
@[simp] theorem State.withTimebase_queue (x : Timebase) : (s.withTimebase x).queue = s.queue := rfl
@[simp] theorem State.withTimebase_cmd (x : Timebase) : (s.withTimebase x).cmd = s.cmd := rfl
@[simp] theorem State.withTimebase_window (x : Timebase) : (s.withTimebase x).window = s.window := rfl
@[simp] theorem State.withTimebase_port (x : Timebase) : (s.withTimebase x).port = s.port := rfl
@[simp] theorem State.withTimebase_pins (x : Timebase) : (s.withTimebase x).pins = s.pins := rfl
@[simp] theorem State.withTimebase_draws (x : Timebase) : (s.withTimebase x).draws = s.draws := rfl
@[simp] theorem State.withTimebase_pauses (x : Timebase) : (s.withTimebase x).pauses = s.pauses := rfl
@[simp] theorem State.withTimebase_pending (x : Timebase) : (s.withTimebase x).pending = s.pending := rfl

/-! ### withClock -/

@[simp] theorem State.withClock_slots (x : Clock) : (s.withClock x).slots = s.slots := rfl
@[simp] theorem State.withClock_plist (x : Clock) : (s.withClock x).plist = s.plist := rfl
@[simp] theorem State.withClock_dispatcher (x : Clock) : (s.withClock x).dispatcher = s.dispatcher := rfl
@[simp] theorem State.withClock_lineUnit (x : Clock) : (s.withClock x).lineUnit = s.lineUnit := rfl
@[simp] theorem State.withClock_groups (x : Clock) : (s.withClock x).groups = s.groups := rfl
@[simp] theorem State.withClock_timebase (x : Clock) : (s.withClock x).timebase = s.timebase := rfl
@[simp] theorem State.withClock_clock (x : Clock) : (s.withClock x).clock = x := rfl
@[simp] theorem State.withClock_capture (x : Clock) : (s.withClock x).capture = s.capture := rfl
@[simp] theorem State.withClock_queue (x : Clock) : (s.withClock x).queue = s.queue := rfl
@[simp] theorem State.withClock_cmd (x : Clock) : (s.withClock x).cmd = s.cmd := rfl
@[simp] theorem State.withClock_window (x : Clock) : (s.withClock x).window = s.window := rfl
@[simp] theorem State.withClock_port (x : Clock) : (s.withClock x).port = s.port := rfl
@[simp] theorem State.withClock_pins (x : Clock) : (s.withClock x).pins = s.pins := rfl
@[simp] theorem State.withClock_draws (x : Clock) : (s.withClock x).draws = s.draws := rfl
@[simp] theorem State.withClock_pauses (x : Clock) : (s.withClock x).pauses = s.pauses := rfl
@[simp] theorem State.withClock_pending (x : Clock) : (s.withClock x).pending = s.pending := rfl

/-! ### withCapture -/

@[simp] theorem State.withCapture_slots (x : CaptureUnit) : (s.withCapture x).slots = s.slots := rfl
@[simp] theorem State.withCapture_plist (x : CaptureUnit) : (s.withCapture x).plist = s.plist := rfl
@[simp] theorem State.withCapture_dispatcher (x : CaptureUnit) : (s.withCapture x).dispatcher = s.dispatcher := rfl
@[simp] theorem State.withCapture_lineUnit (x : CaptureUnit) : (s.withCapture x).lineUnit = s.lineUnit := rfl
@[simp] theorem State.withCapture_groups (x : CaptureUnit) : (s.withCapture x).groups = s.groups := rfl
@[simp] theorem State.withCapture_timebase (x : CaptureUnit) : (s.withCapture x).timebase = s.timebase := rfl
@[simp] theorem State.withCapture_clock (x : CaptureUnit) : (s.withCapture x).clock = s.clock := rfl
@[simp] theorem State.withCapture_capture (x : CaptureUnit) : (s.withCapture x).capture = x := rfl
@[simp] theorem State.withCapture_queue (x : CaptureUnit) : (s.withCapture x).queue = s.queue := rfl
@[simp] theorem State.withCapture_cmd (x : CaptureUnit) : (s.withCapture x).cmd = s.cmd := rfl
@[simp] theorem State.withCapture_window (x : CaptureUnit) : (s.withCapture x).window = s.window := rfl
@[simp] theorem State.withCapture_port (x : CaptureUnit) : (s.withCapture x).port = s.port := rfl
@[simp] theorem State.withCapture_pins (x : CaptureUnit) : (s.withCapture x).pins = s.pins := rfl
@[simp] theorem State.withCapture_draws (x : CaptureUnit) : (s.withCapture x).draws = s.draws := rfl
@[simp] theorem State.withCapture_pauses (x : CaptureUnit) : (s.withCapture x).pauses = s.pauses := rfl
@[simp] theorem State.withCapture_pending (x : CaptureUnit) : (s.withCapture x).pending = s.pending := rfl

/-! ### withQueue -/

@[simp] theorem State.withQueue_slots (x : NotifyQueue) : (s.withQueue x).slots = s.slots := rfl
@[simp] theorem State.withQueue_plist (x : NotifyQueue) : (s.withQueue x).plist = s.plist := rfl
@[simp] theorem State.withQueue_dispatcher (x : NotifyQueue) : (s.withQueue x).dispatcher = s.dispatcher := rfl
@[simp] theorem State.withQueue_lineUnit (x : NotifyQueue) : (s.withQueue x).lineUnit = s.lineUnit := rfl
@[simp] theorem State.withQueue_groups (x : NotifyQueue) : (s.withQueue x).groups = s.groups := rfl
@[simp] theorem State.withQueue_timebase (x : NotifyQueue) : (s.withQueue x).timebase = s.timebase := rfl
@[simp] theorem State.withQueue_clock (x : NotifyQueue) : (s.withQueue x).clock = s.clock := rfl
@[simp] theorem State.withQueue_capture (x : NotifyQueue) : (s.withQueue x).capture = s.capture := rfl
@[simp] theorem State.withQueue_queue (x : NotifyQueue) : (s.withQueue x).queue = x := rfl
@[simp] theorem State.withQueue_cmd (x : NotifyQueue) : (s.withQueue x).cmd = s.cmd := rfl
@[simp] theorem State.withQueue_window (x : NotifyQueue) : (s.withQueue x).window = s.window := rfl
@[simp] theorem State.withQueue_port (x : NotifyQueue) : (s.withQueue x).port = s.port := rfl
@[simp] theorem State.withQueue_pins (x : NotifyQueue) : (s.withQueue x).pins = s.pins := rfl
@[simp] theorem State.withQueue_draws (x : NotifyQueue) : (s.withQueue x).draws = s.draws := rfl
@[simp] theorem State.withQueue_pauses (x : NotifyQueue) : (s.withQueue x).pauses = s.pauses := rfl
@[simp] theorem State.withQueue_pending (x : NotifyQueue) : (s.withQueue x).pending = s.pending := rfl

/-! ### withCmd -/

@[simp] theorem State.withCmd_slots (x : CommandUnit) : (s.withCmd x).slots = s.slots := rfl
@[simp] theorem State.withCmd_plist (x : CommandUnit) : (s.withCmd x).plist = s.plist := rfl
@[simp] theorem State.withCmd_dispatcher (x : CommandUnit) : (s.withCmd x).dispatcher = s.dispatcher := rfl
@[simp] theorem State.withCmd_lineUnit (x : CommandUnit) : (s.withCmd x).lineUnit = s.lineUnit := rfl
@[simp] theorem State.withCmd_groups (x : CommandUnit) : (s.withCmd x).groups = s.groups := rfl
@[simp] theorem State.withCmd_timebase (x : CommandUnit) : (s.withCmd x).timebase = s.timebase := rfl
@[simp] theorem State.withCmd_clock (x : CommandUnit) : (s.withCmd x).clock = s.clock := rfl
@[simp] theorem State.withCmd_capture (x : CommandUnit) : (s.withCmd x).capture = s.capture := rfl
@[simp] theorem State.withCmd_queue (x : CommandUnit) : (s.withCmd x).queue = s.queue := rfl
@[simp] theorem State.withCmd_cmd (x : CommandUnit) : (s.withCmd x).cmd = x := rfl
@[simp] theorem State.withCmd_window (x : CommandUnit) : (s.withCmd x).window = s.window := rfl
@[simp] theorem State.withCmd_port (x : CommandUnit) : (s.withCmd x).port = s.port := rfl
@[simp] theorem State.withCmd_pins (x : CommandUnit) : (s.withCmd x).pins = s.pins := rfl
@[simp] theorem State.withCmd_draws (x : CommandUnit) : (s.withCmd x).draws = s.draws := rfl
@[simp] theorem State.withCmd_pauses (x : CommandUnit) : (s.withCmd x).pauses = s.pauses := rfl
@[simp] theorem State.withCmd_pending (x : CommandUnit) : (s.withCmd x).pending = s.pending := rfl

/-! ### withWindow -/

@[simp] theorem State.withWindow_slots (x : Window) : (s.withWindow x).slots = s.slots := rfl
@[simp] theorem State.withWindow_plist (x : Window) : (s.withWindow x).plist = s.plist := rfl
@[simp] theorem State.withWindow_dispatcher (x : Window) : (s.withWindow x).dispatcher = s.dispatcher := rfl
@[simp] theorem State.withWindow_lineUnit (x : Window) : (s.withWindow x).lineUnit = s.lineUnit := rfl
@[simp] theorem State.withWindow_groups (x : Window) : (s.withWindow x).groups = s.groups := rfl
@[simp] theorem State.withWindow_timebase (x : Window) : (s.withWindow x).timebase = s.timebase := rfl
@[simp] theorem State.withWindow_clock (x : Window) : (s.withWindow x).clock = s.clock := rfl
@[simp] theorem State.withWindow_capture (x : Window) : (s.withWindow x).capture = s.capture := rfl
@[simp] theorem State.withWindow_queue (x : Window) : (s.withWindow x).queue = s.queue := rfl
@[simp] theorem State.withWindow_cmd (x : Window) : (s.withWindow x).cmd = s.cmd := rfl
@[simp] theorem State.withWindow_window (x : Window) : (s.withWindow x).window = x := rfl
@[simp] theorem State.withWindow_port (x : Window) : (s.withWindow x).port = s.port := rfl
@[simp] theorem State.withWindow_pins (x : Window) : (s.withWindow x).pins = s.pins := rfl
@[simp] theorem State.withWindow_draws (x : Window) : (s.withWindow x).draws = s.draws := rfl
@[simp] theorem State.withWindow_pauses (x : Window) : (s.withWindow x).pauses = s.pauses := rfl
@[simp] theorem State.withWindow_pending (x : Window) : (s.withWindow x).pending = s.pending := rfl

/-! ### withPort -/

@[simp] theorem State.withPort_slots (x : Port) : (s.withPort x).slots = s.slots := rfl
@[simp] theorem State.withPort_plist (x : Port) : (s.withPort x).plist = s.plist := rfl
@[simp] theorem State.withPort_dispatcher (x : Port) : (s.withPort x).dispatcher = s.dispatcher := rfl
@[simp] theorem State.withPort_lineUnit (x : Port) : (s.withPort x).lineUnit = s.lineUnit := rfl
@[simp] theorem State.withPort_groups (x : Port) : (s.withPort x).groups = s.groups := rfl
@[simp] theorem State.withPort_timebase (x : Port) : (s.withPort x).timebase = s.timebase := rfl
@[simp] theorem State.withPort_clock (x : Port) : (s.withPort x).clock = s.clock := rfl
@[simp] theorem State.withPort_capture (x : Port) : (s.withPort x).capture = s.capture := rfl
@[simp] theorem State.withPort_queue (x : Port) : (s.withPort x).queue = s.queue := rfl
@[simp] theorem State.withPort_cmd (x : Port) : (s.withPort x).cmd = s.cmd := rfl
@[simp] theorem State.withPort_window (x : Port) : (s.withPort x).window = s.window := rfl
@[simp] theorem State.withPort_port (x : Port) : (s.withPort x).port = x := rfl
@[simp] theorem State.withPort_pins (x : Port) : (s.withPort x).pins = s.pins := rfl
@[simp] theorem State.withPort_draws (x : Port) : (s.withPort x).draws = s.draws := rfl
@[simp] theorem State.withPort_pauses (x : Port) : (s.withPort x).pauses = s.pauses := rfl
@[simp] theorem State.withPort_pending (x : Port) : (s.withPort x).pending = s.pending := rfl

/-! ### withPins -/

@[simp] theorem State.withPins_slots (x : Pins) : (s.withPins x).slots = s.slots := rfl
@[simp] theorem State.withPins_plist (x : Pins) : (s.withPins x).plist = s.plist := rfl
@[simp] theorem State.withPins_dispatcher (x : Pins) : (s.withPins x).dispatcher = s.dispatcher := rfl
@[simp] theorem State.withPins_lineUnit (x : Pins) : (s.withPins x).lineUnit = s.lineUnit := rfl
@[simp] theorem State.withPins_groups (x : Pins) : (s.withPins x).groups = s.groups := rfl
@[simp] theorem State.withPins_timebase (x : Pins) : (s.withPins x).timebase = s.timebase := rfl
@[simp] theorem State.withPins_clock (x : Pins) : (s.withPins x).clock = s.clock := rfl
@[simp] theorem State.withPins_capture (x : Pins) : (s.withPins x).capture = s.capture := rfl
@[simp] theorem State.withPins_queue (x : Pins) : (s.withPins x).queue = s.queue := rfl
@[simp] theorem State.withPins_cmd (x : Pins) : (s.withPins x).cmd = s.cmd := rfl
@[simp] theorem State.withPins_window (x : Pins) : (s.withPins x).window = s.window := rfl
@[simp] theorem State.withPins_port (x : Pins) : (s.withPins x).port = s.port := rfl
@[simp] theorem State.withPins_pins (x : Pins) : (s.withPins x).pins = x := rfl
@[simp] theorem State.withPins_draws (x : Pins) : (s.withPins x).draws = s.draws := rfl
@[simp] theorem State.withPins_pauses (x : Pins) : (s.withPins x).pauses = s.pauses := rfl
@[simp] theorem State.withPins_pending (x : Pins) : (s.withPins x).pending = s.pending := rfl

/-! ### withDraws -/

@[simp] theorem State.withDraws_slots (x : Nat) : (s.withDraws x).slots = s.slots := rfl
@[simp] theorem State.withDraws_plist (x : Nat) : (s.withDraws x).plist = s.plist := rfl
@[simp] theorem State.withDraws_dispatcher (x : Nat) : (s.withDraws x).dispatcher = s.dispatcher := rfl
@[simp] theorem State.withDraws_lineUnit (x : Nat) : (s.withDraws x).lineUnit = s.lineUnit := rfl
@[simp] theorem State.withDraws_groups (x : Nat) : (s.withDraws x).groups = s.groups := rfl
@[simp] theorem State.withDraws_timebase (x : Nat) : (s.withDraws x).timebase = s.timebase := rfl
@[simp] theorem State.withDraws_clock (x : Nat) : (s.withDraws x).clock = s.clock := rfl
@[simp] theorem State.withDraws_capture (x : Nat) : (s.withDraws x).capture = s.capture := rfl
@[simp] theorem State.withDraws_queue (x : Nat) : (s.withDraws x).queue = s.queue := rfl
@[simp] theorem State.withDraws_cmd (x : Nat) : (s.withDraws x).cmd = s.cmd := rfl
@[simp] theorem State.withDraws_window (x : Nat) : (s.withDraws x).window = s.window := rfl
@[simp] theorem State.withDraws_port (x : Nat) : (s.withDraws x).port = s.port := rfl
@[simp] theorem State.withDraws_pins (x : Nat) : (s.withDraws x).pins = s.pins := rfl
@[simp] theorem State.withDraws_draws (x : Nat) : (s.withDraws x).draws = x := rfl
@[simp] theorem State.withDraws_pauses (x : Nat) : (s.withDraws x).pauses = s.pauses := rfl
@[simp] theorem State.withDraws_pending (x : Nat) : (s.withDraws x).pending = s.pending := rfl

/-! ### withPending -/

@[simp] theorem State.withPending_slots (x : List Instr) : (s.withPending x).slots = s.slots := rfl
@[simp] theorem State.withPending_plist (x : List Instr) : (s.withPending x).plist = s.plist := rfl
@[simp] theorem State.withPending_dispatcher (x : List Instr) : (s.withPending x).dispatcher = s.dispatcher := rfl
@[simp] theorem State.withPending_lineUnit (x : List Instr) : (s.withPending x).lineUnit = s.lineUnit := rfl
@[simp] theorem State.withPending_groups (x : List Instr) : (s.withPending x).groups = s.groups := rfl
@[simp] theorem State.withPending_timebase (x : List Instr) : (s.withPending x).timebase = s.timebase := rfl
@[simp] theorem State.withPending_clock (x : List Instr) : (s.withPending x).clock = s.clock := rfl
@[simp] theorem State.withPending_capture (x : List Instr) : (s.withPending x).capture = s.capture := rfl
@[simp] theorem State.withPending_queue (x : List Instr) : (s.withPending x).queue = s.queue := rfl
@[simp] theorem State.withPending_cmd (x : List Instr) : (s.withPending x).cmd = s.cmd := rfl
@[simp] theorem State.withPending_window (x : List Instr) : (s.withPending x).window = s.window := rfl
@[simp] theorem State.withPending_port (x : List Instr) : (s.withPending x).port = s.port := rfl
@[simp] theorem State.withPending_pins (x : List Instr) : (s.withPending x).pins = s.pins := rfl
@[simp] theorem State.withPending_draws (x : List Instr) : (s.withPending x).draws = s.draws := rfl
@[simp] theorem State.withPending_pauses (x : List Instr) : (s.withPending x).pauses = s.pauses := rfl
@[simp] theorem State.withPending_pending (x : List Instr) : (s.withPending x).pending = x := rfl

/-! ### withPauses -/

@[simp] theorem State.withPauses_slots (x : List Nat) : (s.withPauses x).slots = s.slots := rfl
@[simp] theorem State.withPauses_plist (x : List Nat) : (s.withPauses x).plist = s.plist := rfl
@[simp] theorem State.withPauses_dispatcher (x : List Nat) : (s.withPauses x).dispatcher = s.dispatcher := rfl
@[simp] theorem State.withPauses_lineUnit (x : List Nat) : (s.withPauses x).lineUnit = s.lineUnit := rfl
@[simp] theorem State.withPauses_groups (x : List Nat) : (s.withPauses x).groups = s.groups := rfl
@[simp] theorem State.withPauses_timebase (x : List Nat) : (s.withPauses x).timebase = s.timebase := rfl
@[simp] theorem State.withPauses_clock (x : List Nat) : (s.withPauses x).clock = s.clock := rfl
@[simp] theorem State.withPauses_capture (x : List Nat) : (s.withPauses x).capture = s.capture := rfl
@[simp] theorem State.withPauses_queue (x : List Nat) : (s.withPauses x).queue = s.queue := rfl
@[simp] theorem State.withPauses_cmd (x : List Nat) : (s.withPauses x).cmd = s.cmd := rfl
@[simp] theorem State.withPauses_window (x : List Nat) : (s.withPauses x).window = s.window := rfl
@[simp] theorem State.withPauses_port (x : List Nat) : (s.withPauses x).port = s.port := rfl
@[simp] theorem State.withPauses_pins (x : List Nat) : (s.withPauses x).pins = s.pins := rfl
@[simp] theorem State.withPauses_draws (x : List Nat) : (s.withPauses x).draws = s.draws := rfl
@[simp] theorem State.withPauses_pauses (x : List Nat) : (s.withPauses x).pauses = x := rfl
@[simp] theorem State.withPauses_pending (x : List Nat) : (s.withPauses x).pending = s.pending := rfl

/-! ### setSlot -/

@[simp] theorem State.setSlot_plist (i : SlotId) (r : Slot) : (s.setSlot i r).plist = s.plist := rfl
@[simp] theorem State.setSlot_dispatcher (i : SlotId) (r : Slot) : (s.setSlot i r).dispatcher = s.dispatcher := rfl
@[simp] theorem State.setSlot_lineUnit (i : SlotId) (r : Slot) : (s.setSlot i r).lineUnit = s.lineUnit := rfl
@[simp] theorem State.setSlot_groups (i : SlotId) (r : Slot) : (s.setSlot i r).groups = s.groups := rfl
@[simp] theorem State.setSlot_timebase (i : SlotId) (r : Slot) : (s.setSlot i r).timebase = s.timebase := rfl
@[simp] theorem State.setSlot_clock (i : SlotId) (r : Slot) : (s.setSlot i r).clock = s.clock := rfl
@[simp] theorem State.setSlot_capture (i : SlotId) (r : Slot) : (s.setSlot i r).capture = s.capture := rfl
@[simp] theorem State.setSlot_queue (i : SlotId) (r : Slot) : (s.setSlot i r).queue = s.queue := rfl
@[simp] theorem State.setSlot_cmd (i : SlotId) (r : Slot) : (s.setSlot i r).cmd = s.cmd := rfl
@[simp] theorem State.setSlot_window (i : SlotId) (r : Slot) : (s.setSlot i r).window = s.window := rfl
@[simp] theorem State.setSlot_port (i : SlotId) (r : Slot) : (s.setSlot i r).port = s.port := rfl
@[simp] theorem State.setSlot_pins (i : SlotId) (r : Slot) : (s.setSlot i r).pins = s.pins := rfl
@[simp] theorem State.setSlot_draws (i : SlotId) (r : Slot) : (s.setSlot i r).draws = s.draws := rfl
@[simp] theorem State.setSlot_pauses (i : SlotId) (r : Slot) : (s.setSlot i r).pauses = s.pauses := rfl
@[simp] theorem State.setSlot_pending (i : SlotId) (r : Slot) : (s.setSlot i r).pending = s.pending := rfl

/-! ### setLine -/

@[simp] theorem State.setLine_slots (l : LineId) (r : Line) : (s.setLine l r).slots = s.slots := rfl
@[simp] theorem State.setLine_plist (l : LineId) (r : Line) : (s.setLine l r).plist = s.plist := rfl
@[simp] theorem State.setLine_dispatcher (l : LineId) (r : Line) : (s.setLine l r).dispatcher = s.dispatcher := rfl
@[simp] theorem State.setLine_groups (l : LineId) (r : Line) : (s.setLine l r).groups = s.groups := rfl
@[simp] theorem State.setLine_timebase (l : LineId) (r : Line) : (s.setLine l r).timebase = s.timebase := rfl
@[simp] theorem State.setLine_clock (l : LineId) (r : Line) : (s.setLine l r).clock = s.clock := rfl
@[simp] theorem State.setLine_capture (l : LineId) (r : Line) : (s.setLine l r).capture = s.capture := rfl
@[simp] theorem State.setLine_queue (l : LineId) (r : Line) : (s.setLine l r).queue = s.queue := rfl
@[simp] theorem State.setLine_cmd (l : LineId) (r : Line) : (s.setLine l r).cmd = s.cmd := rfl
@[simp] theorem State.setLine_window (l : LineId) (r : Line) : (s.setLine l r).window = s.window := rfl
@[simp] theorem State.setLine_port (l : LineId) (r : Line) : (s.setLine l r).port = s.port := rfl
@[simp] theorem State.setLine_pins (l : LineId) (r : Line) : (s.setLine l r).pins = s.pins := rfl
@[simp] theorem State.setLine_draws (l : LineId) (r : Line) : (s.setLine l r).draws = s.draws := rfl
@[simp] theorem State.setLine_pauses (l : LineId) (r : Line) : (s.setLine l r).pauses = s.pauses := rfl
@[simp] theorem State.setLine_pending (l : LineId) (r : Line) : (s.setLine l r).pending = s.pending := rfl

/-! ### setGroup -/

@[simp] theorem State.setGroup_slots (g : GroupId) (r : Group) : (s.setGroup g r).slots = s.slots := rfl
@[simp] theorem State.setGroup_plist (g : GroupId) (r : Group) : (s.setGroup g r).plist = s.plist := rfl
@[simp] theorem State.setGroup_dispatcher (g : GroupId) (r : Group) : (s.setGroup g r).dispatcher = s.dispatcher := rfl
@[simp] theorem State.setGroup_lineUnit (g : GroupId) (r : Group) : (s.setGroup g r).lineUnit = s.lineUnit := rfl
@[simp] theorem State.setGroup_timebase (g : GroupId) (r : Group) : (s.setGroup g r).timebase = s.timebase := rfl
@[simp] theorem State.setGroup_clock (g : GroupId) (r : Group) : (s.setGroup g r).clock = s.clock := rfl
@[simp] theorem State.setGroup_capture (g : GroupId) (r : Group) : (s.setGroup g r).capture = s.capture := rfl
@[simp] theorem State.setGroup_queue (g : GroupId) (r : Group) : (s.setGroup g r).queue = s.queue := rfl
@[simp] theorem State.setGroup_cmd (g : GroupId) (r : Group) : (s.setGroup g r).cmd = s.cmd := rfl
@[simp] theorem State.setGroup_window (g : GroupId) (r : Group) : (s.setGroup g r).window = s.window := rfl
@[simp] theorem State.setGroup_port (g : GroupId) (r : Group) : (s.setGroup g r).port = s.port := rfl
@[simp] theorem State.setGroup_pins (g : GroupId) (r : Group) : (s.setGroup g r).pins = s.pins := rfl
@[simp] theorem State.setGroup_draws (g : GroupId) (r : Group) : (s.setGroup g r).draws = s.draws := rfl
@[simp] theorem State.setGroup_pauses (g : GroupId) (r : Group) : (s.setGroup g r).pauses = s.pauses := rfl
@[simp] theorem State.setGroup_pending (g : GroupId) (r : Group) : (s.setGroup g r).pending = s.pending := rfl

/-! ### setChannel -/

@[simp] theorem State.setChannel_slots (k : ChannelId) (r : Channel) : (s.setChannel k r).slots = s.slots := rfl
@[simp] theorem State.setChannel_plist (k : ChannelId) (r : Channel) : (s.setChannel k r).plist = s.plist := rfl
@[simp] theorem State.setChannel_dispatcher (k : ChannelId) (r : Channel) : (s.setChannel k r).dispatcher = s.dispatcher := rfl
@[simp] theorem State.setChannel_lineUnit (k : ChannelId) (r : Channel) : (s.setChannel k r).lineUnit = s.lineUnit := rfl
@[simp] theorem State.setChannel_groups (k : ChannelId) (r : Channel) : (s.setChannel k r).groups = s.groups := rfl
@[simp] theorem State.setChannel_timebase (k : ChannelId) (r : Channel) : (s.setChannel k r).timebase = s.timebase := rfl
@[simp] theorem State.setChannel_clock (k : ChannelId) (r : Channel) : (s.setChannel k r).clock = s.clock := rfl
@[simp] theorem State.setChannel_queue (k : ChannelId) (r : Channel) : (s.setChannel k r).queue = s.queue := rfl
@[simp] theorem State.setChannel_cmd (k : ChannelId) (r : Channel) : (s.setChannel k r).cmd = s.cmd := rfl
@[simp] theorem State.setChannel_window (k : ChannelId) (r : Channel) : (s.setChannel k r).window = s.window := rfl
@[simp] theorem State.setChannel_port (k : ChannelId) (r : Channel) : (s.setChannel k r).port = s.port := rfl
@[simp] theorem State.setChannel_pins (k : ChannelId) (r : Channel) : (s.setChannel k r).pins = s.pins := rfl
@[simp] theorem State.setChannel_draws (k : ChannelId) (r : Channel) : (s.setChannel k r).draws = s.draws := rfl
@[simp] theorem State.setChannel_pauses (k : ChannelId) (r : Channel) : (s.setChannel k r).pauses = s.pauses := rfl
@[simp] theorem State.setChannel_pending (k : ChannelId) (r : Channel) : (s.setChannel k r).pending = s.pending := rfl

/-! ### mapSlots -/

@[simp] theorem State.mapSlots_plist (f : SlotId → Slot → Slot) : (s.mapSlots f).plist = s.plist := rfl
@[simp] theorem State.mapSlots_dispatcher (f : SlotId → Slot → Slot) : (s.mapSlots f).dispatcher = s.dispatcher := rfl
@[simp] theorem State.mapSlots_lineUnit (f : SlotId → Slot → Slot) : (s.mapSlots f).lineUnit = s.lineUnit := rfl
@[simp] theorem State.mapSlots_groups (f : SlotId → Slot → Slot) : (s.mapSlots f).groups = s.groups := rfl
@[simp] theorem State.mapSlots_timebase (f : SlotId → Slot → Slot) : (s.mapSlots f).timebase = s.timebase := rfl
@[simp] theorem State.mapSlots_clock (f : SlotId → Slot → Slot) : (s.mapSlots f).clock = s.clock := rfl
@[simp] theorem State.mapSlots_capture (f : SlotId → Slot → Slot) : (s.mapSlots f).capture = s.capture := rfl
@[simp] theorem State.mapSlots_queue (f : SlotId → Slot → Slot) : (s.mapSlots f).queue = s.queue := rfl
@[simp] theorem State.mapSlots_cmd (f : SlotId → Slot → Slot) : (s.mapSlots f).cmd = s.cmd := rfl
@[simp] theorem State.mapSlots_window (f : SlotId → Slot → Slot) : (s.mapSlots f).window = s.window := rfl
@[simp] theorem State.mapSlots_port (f : SlotId → Slot → Slot) : (s.mapSlots f).port = s.port := rfl
@[simp] theorem State.mapSlots_pins (f : SlotId → Slot → Slot) : (s.mapSlots f).pins = s.pins := rfl
@[simp] theorem State.mapSlots_draws (f : SlotId → Slot → Slot) : (s.mapSlots f).draws = s.draws := rfl
@[simp] theorem State.mapSlots_pauses (f : SlotId → Slot → Slot) : (s.mapSlots f).pauses = s.pauses := rfl
@[simp] theorem State.mapSlots_pending (f : SlotId → Slot → Slot) : (s.mapSlots f).pending = s.pending := rfl

/-! ### mapLines -/

@[simp] theorem State.mapLines_slots (f : LineId → Line → Line) : (s.mapLines f).slots = s.slots := rfl
@[simp] theorem State.mapLines_plist (f : LineId → Line → Line) : (s.mapLines f).plist = s.plist := rfl
@[simp] theorem State.mapLines_dispatcher (f : LineId → Line → Line) : (s.mapLines f).dispatcher = s.dispatcher := rfl
@[simp] theorem State.mapLines_groups (f : LineId → Line → Line) : (s.mapLines f).groups = s.groups := rfl
@[simp] theorem State.mapLines_timebase (f : LineId → Line → Line) : (s.mapLines f).timebase = s.timebase := rfl
@[simp] theorem State.mapLines_clock (f : LineId → Line → Line) : (s.mapLines f).clock = s.clock := rfl
@[simp] theorem State.mapLines_capture (f : LineId → Line → Line) : (s.mapLines f).capture = s.capture := rfl
@[simp] theorem State.mapLines_queue (f : LineId → Line → Line) : (s.mapLines f).queue = s.queue := rfl
@[simp] theorem State.mapLines_cmd (f : LineId → Line → Line) : (s.mapLines f).cmd = s.cmd := rfl
@[simp] theorem State.mapLines_window (f : LineId → Line → Line) : (s.mapLines f).window = s.window := rfl
@[simp] theorem State.mapLines_port (f : LineId → Line → Line) : (s.mapLines f).port = s.port := rfl
@[simp] theorem State.mapLines_pins (f : LineId → Line → Line) : (s.mapLines f).pins = s.pins := rfl
@[simp] theorem State.mapLines_draws (f : LineId → Line → Line) : (s.mapLines f).draws = s.draws := rfl
@[simp] theorem State.mapLines_pauses (f : LineId → Line → Line) : (s.mapLines f).pauses = s.pauses := rfl
@[simp] theorem State.mapLines_pending (f : LineId → Line → Line) : (s.mapLines f).pending = s.pending := rfl

/-! ### mapChannels -/

@[simp] theorem State.mapChannels_slots (f : ChannelId → Channel → Channel) : (s.mapChannels f).slots = s.slots := rfl
@[simp] theorem State.mapChannels_plist (f : ChannelId → Channel → Channel) : (s.mapChannels f).plist = s.plist := rfl
@[simp] theorem State.mapChannels_dispatcher (f : ChannelId → Channel → Channel) : (s.mapChannels f).dispatcher = s.dispatcher := rfl
@[simp] theorem State.mapChannels_lineUnit (f : ChannelId → Channel → Channel) : (s.mapChannels f).lineUnit = s.lineUnit := rfl
@[simp] theorem State.mapChannels_groups (f : ChannelId → Channel → Channel) : (s.mapChannels f).groups = s.groups := rfl
@[simp] theorem State.mapChannels_timebase (f : ChannelId → Channel → Channel) : (s.mapChannels f).timebase = s.timebase := rfl
@[simp] theorem State.mapChannels_clock (f : ChannelId → Channel → Channel) : (s.mapChannels f).clock = s.clock := rfl
@[simp] theorem State.mapChannels_queue (f : ChannelId → Channel → Channel) : (s.mapChannels f).queue = s.queue := rfl
@[simp] theorem State.mapChannels_cmd (f : ChannelId → Channel → Channel) : (s.mapChannels f).cmd = s.cmd := rfl
@[simp] theorem State.mapChannels_window (f : ChannelId → Channel → Channel) : (s.mapChannels f).window = s.window := rfl
@[simp] theorem State.mapChannels_port (f : ChannelId → Channel → Channel) : (s.mapChannels f).port = s.port := rfl
@[simp] theorem State.mapChannels_pins (f : ChannelId → Channel → Channel) : (s.mapChannels f).pins = s.pins := rfl
@[simp] theorem State.mapChannels_draws (f : ChannelId → Channel → Channel) : (s.mapChannels f).draws = s.draws := rfl
@[simp] theorem State.mapChannels_pauses (f : ChannelId → Channel → Channel) : (s.mapChannels f).pauses = s.pauses := rfl
@[simp] theorem State.mapChannels_pending (f : ChannelId → Channel → Channel) : (s.mapChannels f).pending = s.pending := rfl

/-! ### insertSlot -/

@[simp] theorem State.insertSlot_slots (i : SlotId) : (s.insertSlot i).slots = s.slots := rfl
@[simp] theorem State.insertSlot_dispatcher (i : SlotId) : (s.insertSlot i).dispatcher = s.dispatcher := rfl
@[simp] theorem State.insertSlot_lineUnit (i : SlotId) : (s.insertSlot i).lineUnit = s.lineUnit := rfl
@[simp] theorem State.insertSlot_groups (i : SlotId) : (s.insertSlot i).groups = s.groups := rfl
@[simp] theorem State.insertSlot_timebase (i : SlotId) : (s.insertSlot i).timebase = s.timebase := rfl
@[simp] theorem State.insertSlot_clock (i : SlotId) : (s.insertSlot i).clock = s.clock := rfl
@[simp] theorem State.insertSlot_capture (i : SlotId) : (s.insertSlot i).capture = s.capture := rfl
@[simp] theorem State.insertSlot_queue (i : SlotId) : (s.insertSlot i).queue = s.queue := rfl
@[simp] theorem State.insertSlot_cmd (i : SlotId) : (s.insertSlot i).cmd = s.cmd := rfl
@[simp] theorem State.insertSlot_window (i : SlotId) : (s.insertSlot i).window = s.window := rfl
@[simp] theorem State.insertSlot_port (i : SlotId) : (s.insertSlot i).port = s.port := rfl
@[simp] theorem State.insertSlot_pins (i : SlotId) : (s.insertSlot i).pins = s.pins := rfl
@[simp] theorem State.insertSlot_draws (i : SlotId) : (s.insertSlot i).draws = s.draws := rfl
@[simp] theorem State.insertSlot_pauses (i : SlotId) : (s.insertSlot i).pauses = s.pauses := rfl
@[simp] theorem State.insertSlot_pending (i : SlotId) : (s.insertSlot i).pending = s.pending := rfl

/-! ### removeSlot -/

@[simp] theorem State.removeSlot_slots (i : SlotId) : (s.removeSlot i).slots = s.slots := rfl
@[simp] theorem State.removeSlot_dispatcher (i : SlotId) : (s.removeSlot i).dispatcher = s.dispatcher := rfl
@[simp] theorem State.removeSlot_lineUnit (i : SlotId) : (s.removeSlot i).lineUnit = s.lineUnit := rfl
@[simp] theorem State.removeSlot_groups (i : SlotId) : (s.removeSlot i).groups = s.groups := rfl
@[simp] theorem State.removeSlot_timebase (i : SlotId) : (s.removeSlot i).timebase = s.timebase := rfl
@[simp] theorem State.removeSlot_clock (i : SlotId) : (s.removeSlot i).clock = s.clock := rfl
@[simp] theorem State.removeSlot_capture (i : SlotId) : (s.removeSlot i).capture = s.capture := rfl
@[simp] theorem State.removeSlot_queue (i : SlotId) : (s.removeSlot i).queue = s.queue := rfl
@[simp] theorem State.removeSlot_cmd (i : SlotId) : (s.removeSlot i).cmd = s.cmd := rfl
@[simp] theorem State.removeSlot_window (i : SlotId) : (s.removeSlot i).window = s.window := rfl
@[simp] theorem State.removeSlot_port (i : SlotId) : (s.removeSlot i).port = s.port := rfl
@[simp] theorem State.removeSlot_pins (i : SlotId) : (s.removeSlot i).pins = s.pins := rfl
@[simp] theorem State.removeSlot_draws (i : SlotId) : (s.removeSlot i).draws = s.draws := rfl
@[simp] theorem State.removeSlot_pauses (i : SlotId) : (s.removeSlot i).pauses = s.pauses := rfl
@[simp] theorem State.removeSlot_pending (i : SlotId) : (s.removeSlot i).pending = s.pending := rfl

/-! ### keepDue -/

@[simp] theorem State.keepDue_slots : (s.keepDue).slots = s.slots := rfl
@[simp] theorem State.keepDue_dispatcher : (s.keepDue).dispatcher = s.dispatcher := rfl
@[simp] theorem State.keepDue_lineUnit : (s.keepDue).lineUnit = s.lineUnit := rfl
@[simp] theorem State.keepDue_groups : (s.keepDue).groups = s.groups := rfl
@[simp] theorem State.keepDue_timebase : (s.keepDue).timebase = s.timebase := rfl
@[simp] theorem State.keepDue_clock : (s.keepDue).clock = s.clock := rfl
@[simp] theorem State.keepDue_capture : (s.keepDue).capture = s.capture := rfl
@[simp] theorem State.keepDue_queue : (s.keepDue).queue = s.queue := rfl
@[simp] theorem State.keepDue_cmd : (s.keepDue).cmd = s.cmd := rfl
@[simp] theorem State.keepDue_window : (s.keepDue).window = s.window := rfl
@[simp] theorem State.keepDue_port : (s.keepDue).port = s.port := rfl
@[simp] theorem State.keepDue_pins : (s.keepDue).pins = s.pins := rfl
@[simp] theorem State.keepDue_draws : (s.keepDue).draws = s.draws := rfl
@[simp] theorem State.keepDue_pauses : (s.keepDue).pauses = s.pauses := rfl
@[simp] theorem State.keepDue_pending : (s.keepDue).pending = s.pending := rfl

/-! ### handover -/

@[simp] theorem State.handover_slots : (s.handover).slots = s.slots := rfl
@[simp] theorem State.handover_plist : (s.handover).plist = s.plist := rfl
@[simp] theorem State.handover_dispatcher : (s.handover).dispatcher = s.dispatcher := rfl
@[simp] theorem State.handover_lineUnit : (s.handover).lineUnit = s.lineUnit := rfl
@[simp] theorem State.handover_groups : (s.handover).groups = s.groups := rfl
@[simp] theorem State.handover_clock : (s.handover).clock = s.clock := rfl
@[simp] theorem State.handover_capture : (s.handover).capture = s.capture := rfl
@[simp] theorem State.handover_queue : (s.handover).queue = s.queue := rfl
@[simp] theorem State.handover_cmd : (s.handover).cmd = s.cmd := rfl
@[simp] theorem State.handover_window : (s.handover).window = s.window := rfl
@[simp] theorem State.handover_port : (s.handover).port = s.port := rfl
@[simp] theorem State.handover_pins : (s.handover).pins = s.pins := rfl
@[simp] theorem State.handover_draws : (s.handover).draws = s.draws := rfl
@[simp] theorem State.handover_pauses : (s.handover).pauses = s.pauses := rfl
@[simp] theorem State.handover_pending : (s.handover).pending = s.pending := rfl

/-! ### loadTime -/

@[simp] theorem State.loadTime_slots (t : Tick) (e : BitVec 16) : (s.loadTime t e).slots = s.slots := rfl
@[simp] theorem State.loadTime_plist (t : Tick) (e : BitVec 16) : (s.loadTime t e).plist = s.plist := rfl
@[simp] theorem State.loadTime_dispatcher (t : Tick) (e : BitVec 16) : (s.loadTime t e).dispatcher = s.dispatcher := rfl
@[simp] theorem State.loadTime_lineUnit (t : Tick) (e : BitVec 16) : (s.loadTime t e).lineUnit = s.lineUnit := rfl
@[simp] theorem State.loadTime_groups (t : Tick) (e : BitVec 16) : (s.loadTime t e).groups = s.groups := rfl
@[simp] theorem State.loadTime_clock (t : Tick) (e : BitVec 16) : (s.loadTime t e).clock = s.clock := rfl
@[simp] theorem State.loadTime_capture (t : Tick) (e : BitVec 16) : (s.loadTime t e).capture = s.capture := rfl
@[simp] theorem State.loadTime_queue (t : Tick) (e : BitVec 16) : (s.loadTime t e).queue = s.queue := rfl
@[simp] theorem State.loadTime_cmd (t : Tick) (e : BitVec 16) : (s.loadTime t e).cmd = s.cmd := rfl
@[simp] theorem State.loadTime_window (t : Tick) (e : BitVec 16) : (s.loadTime t e).window = s.window := rfl
@[simp] theorem State.loadTime_port (t : Tick) (e : BitVec 16) : (s.loadTime t e).port = s.port := rfl
@[simp] theorem State.loadTime_pins (t : Tick) (e : BitVec 16) : (s.loadTime t e).pins = s.pins := rfl
@[simp] theorem State.loadTime_draws (t : Tick) (e : BitVec 16) : (s.loadTime t e).draws = s.draws := rfl
@[simp] theorem State.loadTime_pauses (t : Tick) (e : BitVec 16) : (s.loadTime t e).pauses = s.pauses := rfl
@[simp] theorem State.loadTime_pending (t : Tick) (e : BitVec 16) : (s.loadTime t e).pending = s.pending := rfl

/-! ### work -/

@[simp] theorem State.work_slots (w : Work) : (s.work w).slots = s.slots := rfl
@[simp] theorem State.work_plist (w : Work) : (s.work w).plist = s.plist := rfl
@[simp] theorem State.work_dispatcher (w : Work) : (s.work w).dispatcher = s.dispatcher := rfl
@[simp] theorem State.work_lineUnit (w : Work) : (s.work w).lineUnit = s.lineUnit := rfl
@[simp] theorem State.work_groups (w : Work) : (s.work w).groups = s.groups := rfl
@[simp] theorem State.work_timebase (w : Work) : (s.work w).timebase = s.timebase := rfl
@[simp] theorem State.work_clock (w : Work) : (s.work w).clock = s.clock := rfl
@[simp] theorem State.work_capture (w : Work) : (s.work w).capture = s.capture := rfl
@[simp] theorem State.work_queue (w : Work) : (s.work w).queue = s.queue := rfl
@[simp] theorem State.work_window (w : Work) : (s.work w).window = s.window := rfl
@[simp] theorem State.work_port (w : Work) : (s.work w).port = s.port := rfl
@[simp] theorem State.work_pins (w : Work) : (s.work w).pins = s.pins := rfl
@[simp] theorem State.work_draws (w : Work) : (s.work w).draws = s.draws := rfl
@[simp] theorem State.work_pauses (w : Work) : (s.work w).pauses = s.pauses := rfl
@[simp] theorem State.work_pending (w : Work) : (s.work w).pending = s.pending := rfl

/-! ### finish -/

@[simp] theorem State.finish_slots (r : ResultCode) : (s.finish r).slots = s.slots := rfl
@[simp] theorem State.finish_plist (r : ResultCode) : (s.finish r).plist = s.plist := rfl
@[simp] theorem State.finish_dispatcher (r : ResultCode) : (s.finish r).dispatcher = s.dispatcher := rfl
@[simp] theorem State.finish_lineUnit (r : ResultCode) : (s.finish r).lineUnit = s.lineUnit := rfl
@[simp] theorem State.finish_groups (r : ResultCode) : (s.finish r).groups = s.groups := rfl
@[simp] theorem State.finish_timebase (r : ResultCode) : (s.finish r).timebase = s.timebase := rfl
@[simp] theorem State.finish_clock (r : ResultCode) : (s.finish r).clock = s.clock := rfl
@[simp] theorem State.finish_capture (r : ResultCode) : (s.finish r).capture = s.capture := rfl
@[simp] theorem State.finish_queue (r : ResultCode) : (s.finish r).queue = s.queue := rfl
@[simp] theorem State.finish_window (r : ResultCode) : (s.finish r).window = s.window := rfl
@[simp] theorem State.finish_port (r : ResultCode) : (s.finish r).port = s.port := rfl
@[simp] theorem State.finish_pins (r : ResultCode) : (s.finish r).pins = s.pins := rfl
@[simp] theorem State.finish_draws (r : ResultCode) : (s.finish r).draws = s.draws := rfl
@[simp] theorem State.finish_pauses (r : ResultCode) : (s.finish r).pauses = s.pauses := rfl
@[simp] theorem State.finish_pending (r : ResultCode) : (s.finish r).pending = s.pending := rfl

/-! ### taken -/

@[simp] theorem State.taken_slots (code : Byte) : (s.taken code).slots = s.slots := rfl
@[simp] theorem State.taken_plist (code : Byte) : (s.taken code).plist = s.plist := rfl
@[simp] theorem State.taken_dispatcher (code : Byte) : (s.taken code).dispatcher = s.dispatcher := rfl
@[simp] theorem State.taken_lineUnit (code : Byte) : (s.taken code).lineUnit = s.lineUnit := rfl
@[simp] theorem State.taken_groups (code : Byte) : (s.taken code).groups = s.groups := rfl
@[simp] theorem State.taken_timebase (code : Byte) : (s.taken code).timebase = s.timebase := rfl
@[simp] theorem State.taken_clock (code : Byte) : (s.taken code).clock = s.clock := rfl
@[simp] theorem State.taken_capture (code : Byte) : (s.taken code).capture = s.capture := rfl
@[simp] theorem State.taken_queue (code : Byte) : (s.taken code).queue = s.queue := rfl
@[simp] theorem State.taken_window (code : Byte) : (s.taken code).window = s.window := rfl
@[simp] theorem State.taken_port (code : Byte) : (s.taken code).port = s.port := rfl
@[simp] theorem State.taken_pins (code : Byte) : (s.taken code).pins = s.pins := rfl
@[simp] theorem State.taken_draws (code : Byte) : (s.taken code).draws = s.draws := rfl
@[simp] theorem State.taken_pauses (code : Byte) : (s.taken code).pauses = s.pauses := rfl
@[simp] theorem State.taken_pending (code : Byte) : (s.taken code).pending = s.pending := rfl

/-! ### collided -/

@[simp] theorem State.collided_slots : (s.collided).slots = s.slots := rfl
@[simp] theorem State.collided_plist : (s.collided).plist = s.plist := rfl
@[simp] theorem State.collided_dispatcher : (s.collided).dispatcher = s.dispatcher := rfl
@[simp] theorem State.collided_lineUnit : (s.collided).lineUnit = s.lineUnit := rfl
@[simp] theorem State.collided_groups : (s.collided).groups = s.groups := rfl
@[simp] theorem State.collided_timebase : (s.collided).timebase = s.timebase := rfl
@[simp] theorem State.collided_clock : (s.collided).clock = s.clock := rfl
@[simp] theorem State.collided_capture : (s.collided).capture = s.capture := rfl
@[simp] theorem State.collided_queue : (s.collided).queue = s.queue := rfl
@[simp] theorem State.collided_window : (s.collided).window = s.window := rfl
@[simp] theorem State.collided_port : (s.collided).port = s.port := rfl
@[simp] theorem State.collided_pins : (s.collided).pins = s.pins := rfl
@[simp] theorem State.collided_draws : (s.collided).draws = s.draws := rfl
@[simp] theorem State.collided_pauses : (s.collided).pauses = s.pauses := rfl
@[simp] theorem State.collided_pending : (s.collided).pending = s.pending := rfl

/-! ### completeWith -/

@[simp] theorem State.completeWith_slots (r : ResultCode) : (s.completeWith r).slots = s.slots := rfl
@[simp] theorem State.completeWith_plist (r : ResultCode) : (s.completeWith r).plist = s.plist := rfl
@[simp] theorem State.completeWith_dispatcher (r : ResultCode) : (s.completeWith r).dispatcher = s.dispatcher := rfl
@[simp] theorem State.completeWith_lineUnit (r : ResultCode) : (s.completeWith r).lineUnit = s.lineUnit := rfl
@[simp] theorem State.completeWith_groups (r : ResultCode) : (s.completeWith r).groups = s.groups := rfl
@[simp] theorem State.completeWith_timebase (r : ResultCode) : (s.completeWith r).timebase = s.timebase := rfl
@[simp] theorem State.completeWith_clock (r : ResultCode) : (s.completeWith r).clock = s.clock := rfl
@[simp] theorem State.completeWith_capture (r : ResultCode) : (s.completeWith r).capture = s.capture := rfl
@[simp] theorem State.completeWith_queue (r : ResultCode) : (s.completeWith r).queue = s.queue := rfl
@[simp] theorem State.completeWith_window (r : ResultCode) : (s.completeWith r).window = s.window := rfl
@[simp] theorem State.completeWith_port (r : ResultCode) : (s.completeWith r).port = s.port := rfl
@[simp] theorem State.completeWith_pins (r : ResultCode) : (s.completeWith r).pins = s.pins := rfl
@[simp] theorem State.completeWith_draws (r : ResultCode) : (s.completeWith r).draws = s.draws := rfl
@[simp] theorem State.completeWith_pauses (r : ResultCode) : (s.completeWith r).pauses = s.pauses := rfl
@[simp] theorem State.completeWith_pending (r : ResultCode) : (s.completeWith r).pending = s.pending := rfl

/-! ### advance -/

@[simp] theorem State.advance_slots : (s.advance).slots = s.slots := rfl
@[simp] theorem State.advance_plist : (s.advance).plist = s.plist := rfl
@[simp] theorem State.advance_dispatcher : (s.advance).dispatcher = s.dispatcher := rfl
@[simp] theorem State.advance_lineUnit : (s.advance).lineUnit = s.lineUnit := rfl
@[simp] theorem State.advance_groups : (s.advance).groups = s.groups := rfl
@[simp] theorem State.advance_timebase : (s.advance).timebase = s.timebase := rfl
@[simp] theorem State.advance_clock : (s.advance).clock = s.clock := rfl
@[simp] theorem State.advance_capture : (s.advance).capture = s.capture := rfl
@[simp] theorem State.advance_queue : (s.advance).queue = s.queue := rfl
@[simp] theorem State.advance_cmd : (s.advance).cmd = s.cmd := rfl
@[simp] theorem State.advance_window : (s.advance).window = s.window := rfl
@[simp] theorem State.advance_pins : (s.advance).pins = s.pins := rfl
@[simp] theorem State.advance_draws : (s.advance).draws = s.draws := rfl
@[simp] theorem State.advance_pauses : (s.advance).pauses = s.pauses := rfl
@[simp] theorem State.advance_pending : (s.advance).pending = s.pending := rfl

/-! ### withHold -/

@[simp] theorem State.withHold_slots (h : Holding) : (s.withHold h).slots = s.slots := rfl
@[simp] theorem State.withHold_plist (h : Holding) : (s.withHold h).plist = s.plist := rfl
@[simp] theorem State.withHold_dispatcher (h : Holding) : (s.withHold h).dispatcher = s.dispatcher := rfl
@[simp] theorem State.withHold_lineUnit (h : Holding) : (s.withHold h).lineUnit = s.lineUnit := rfl
@[simp] theorem State.withHold_groups (h : Holding) : (s.withHold h).groups = s.groups := rfl
@[simp] theorem State.withHold_timebase (h : Holding) : (s.withHold h).timebase = s.timebase := rfl
@[simp] theorem State.withHold_clock (h : Holding) : (s.withHold h).clock = s.clock := rfl
@[simp] theorem State.withHold_capture (h : Holding) : (s.withHold h).capture = s.capture := rfl
@[simp] theorem State.withHold_queue (h : Holding) : (s.withHold h).queue = s.queue := rfl
@[simp] theorem State.withHold_cmd (h : Holding) : (s.withHold h).cmd = s.cmd := rfl
@[simp] theorem State.withHold_port (h : Holding) : (s.withHold h).port = s.port := rfl
@[simp] theorem State.withHold_pins (h : Holding) : (s.withHold h).pins = s.pins := rfl
@[simp] theorem State.withHold_draws (h : Holding) : (s.withHold h).draws = s.draws := rfl
@[simp] theorem State.withHold_pauses (h : Holding) : (s.withHold h).pauses = s.pauses := rfl
@[simp] theorem State.withHold_pending (h : Holding) : (s.withHold h).pending = s.pending := rfl

/-! ### pauseTaken -/

@[simp] theorem State.pauseTaken_slots : s.pauseTaken.slots = s.slots := rfl
@[simp] theorem State.pauseTaken_plist : s.pauseTaken.plist = s.plist := rfl
@[simp] theorem State.pauseTaken_dispatcher : s.pauseTaken.dispatcher = s.dispatcher := rfl
@[simp] theorem State.pauseTaken_lineUnit : s.pauseTaken.lineUnit = s.lineUnit := rfl
@[simp] theorem State.pauseTaken_groups : s.pauseTaken.groups = s.groups := rfl
@[simp] theorem State.pauseTaken_timebase : s.pauseTaken.timebase = s.timebase := rfl
@[simp] theorem State.pauseTaken_clock : s.pauseTaken.clock = s.clock := rfl
@[simp] theorem State.pauseTaken_capture : s.pauseTaken.capture = s.capture := rfl
@[simp] theorem State.pauseTaken_queue : s.pauseTaken.queue = s.queue := rfl
@[simp] theorem State.pauseTaken_cmd : s.pauseTaken.cmd = s.cmd := rfl
@[simp] theorem State.pauseTaken_window : s.pauseTaken.window = s.window := rfl
@[simp] theorem State.pauseTaken_port : s.pauseTaken.port = s.port := rfl
@[simp] theorem State.pauseTaken_pins : s.pauseTaken.pins = s.pins := rfl
@[simp] theorem State.pauseTaken_draws : s.pauseTaken.draws = s.draws := rfl
@[simp] theorem State.pauseTaken_pauses : s.pauseTaken.pauses = s.pauses.tail := rfl
@[simp] theorem State.pauseTaken_pending : s.pauseTaken.pending = s.pending := rfl

/-! ### What each of these writes into its own block -/

@[simp] theorem State.work_inHand (w : Work) : (s.work w).cmd.inHand = some w := rfl
@[simp] theorem State.finish_inHand (r : ResultCode) : (s.finish r).cmd.inHand = some (.finished r) := rfl
@[simp] theorem State.taken_captured (code : Byte) : (s.taken code).cmd.captured = ⟨s.cmd.args, s.cmd.staging⟩ := rfl
@[simp] theorem State.setLine_locked (l : LineId) (r : Line) : (s.setLine l r).lineUnit.locked = s.lineUnit.locked := rfl
@[simp] theorem State.mapLines_locked (f : LineId → Line → Line) : (s.mapLines f).lineUnit.locked = s.lineUnit.locked := rfl
@[simp] theorem State.setChannel_fifo (k : ChannelId) (r : Channel) : (s.setChannel k r).capture.fifo = s.capture.fifo := rfl
@[simp] theorem State.mapChannels_fifo (f : ChannelId → Channel → Channel) : (s.mapChannels f).capture.fifo = s.capture.fifo := rfl
@[simp] theorem State.setChannel_watermark (k : ChannelId) (r : Channel) : (s.setChannel k r).capture.watermark = s.capture.watermark := rfl
@[simp] theorem State.mapChannels_watermark (f : ChannelId → Channel → Channel) : (s.mapChannels f).capture.watermark = s.capture.watermark := rfl
@[simp] theorem State.loadTime_now (t : Tick) (e : BitVec 16) : (s.loadTime t e).now = t := rfl
@[simp] theorem State.loadTime_running (t : Tick) (e : BitVec 16) : (s.loadTime t e).timebase.running = s.timebase.running := rfl
@[simp] theorem State.handover_now : s.handover.now = s.now := rfl
@[simp] theorem State.handover_running : s.handover.timebase.running = s.timebase.running := rfl
@[simp] theorem State.advance_frame : s.advance.port.frame = s.port.frame := rfl
@[simp] theorem State.advance_pointer : s.advance.port.pointer = s.port.pointer + 1 := rfl

/-! ### Reading slot after an update of another block -/

@[simp] theorem State.withPlist_slot (x : List Entry) (i : SlotId): (s.withPlist x).slot i = s.slot i := rfl
@[simp] theorem State.withDispatcher_slot (x : Dispatcher) (i : SlotId): (s.withDispatcher x).slot i = s.slot i := rfl
@[simp] theorem State.withLineUnit_slot (x : LineUnit) (i : SlotId): (s.withLineUnit x).slot i = s.slot i := rfl
@[simp] theorem State.withGroups_slot (x : Vector Group 8) (i : SlotId): (s.withGroups x).slot i = s.slot i := rfl
@[simp] theorem State.withTimebase_slot (x : Timebase) (i : SlotId): (s.withTimebase x).slot i = s.slot i := rfl
@[simp] theorem State.withClock_slot (x : Clock) (i : SlotId): (s.withClock x).slot i = s.slot i := rfl
@[simp] theorem State.withCapture_slot (x : CaptureUnit) (i : SlotId): (s.withCapture x).slot i = s.slot i := rfl
@[simp] theorem State.withQueue_slot (x : NotifyQueue) (i : SlotId): (s.withQueue x).slot i = s.slot i := rfl
@[simp] theorem State.withCmd_slot (x : CommandUnit) (i : SlotId): (s.withCmd x).slot i = s.slot i := rfl
@[simp] theorem State.withWindow_slot (x : Window) (i : SlotId): (s.withWindow x).slot i = s.slot i := rfl
@[simp] theorem State.withPort_slot (x : Port) (i : SlotId): (s.withPort x).slot i = s.slot i := rfl
@[simp] theorem State.withPins_slot (x : Pins) (i : SlotId): (s.withPins x).slot i = s.slot i := rfl
@[simp] theorem State.withDraws_slot (x : Nat) (i : SlotId): (s.withDraws x).slot i = s.slot i := rfl
@[simp] theorem State.withPauses_slot (x : List Nat) (i : SlotId): (s.withPauses x).slot i = s.slot i := rfl
@[simp] theorem State.pauseTaken_slot (i : SlotId) : s.pauseTaken.slot i = s.slot i := rfl
@[simp] theorem State.withPending_slot (x : List Instr) (i : SlotId): (s.withPending x).slot i = s.slot i := rfl
@[simp] theorem State.setLine_slot (l : LineId) (r : Line) (i : SlotId) : (s.setLine l r).slot i = s.slot i := rfl
@[simp] theorem State.setGroup_slot (g : GroupId) (r : Group) (i : SlotId) : (s.setGroup g r).slot i = s.slot i := rfl
@[simp] theorem State.setChannel_slot (k : ChannelId) (r : Channel) (i : SlotId) : (s.setChannel k r).slot i = s.slot i := rfl
@[simp] theorem State.mapLines_slot (f : LineId → Line → Line) (i : SlotId) : (s.mapLines f).slot i = s.slot i := rfl
@[simp] theorem State.mapChannels_slot (f : ChannelId → Channel → Channel) (i : SlotId) : (s.mapChannels f).slot i = s.slot i := rfl
@[simp] theorem State.insertSlot_slot (i' : SlotId) (i : SlotId) : (s.insertSlot i').slot i = s.slot i := rfl
@[simp] theorem State.removeSlot_slot (i' : SlotId) (i : SlotId) : (s.removeSlot i').slot i = s.slot i := rfl
@[simp] theorem State.keepDue_slot (i : SlotId) : (s.keepDue).slot i = s.slot i := rfl
@[simp] theorem State.handover_slot (i : SlotId) : (s.handover).slot i = s.slot i := rfl
@[simp] theorem State.loadTime_slot (t : Tick) (e : BitVec 16) (i : SlotId) : (s.loadTime t e).slot i = s.slot i := rfl
@[simp] theorem State.work_slot (w : Work) (i : SlotId) : (s.work w).slot i = s.slot i := rfl
@[simp] theorem State.finish_slot (r : ResultCode) (i : SlotId) : (s.finish r).slot i = s.slot i := rfl
@[simp] theorem State.taken_slot (code : Byte) (i : SlotId) : (s.taken code).slot i = s.slot i := rfl
@[simp] theorem State.collided_slot (i : SlotId) : (s.collided).slot i = s.slot i := rfl
@[simp] theorem State.completeWith_slot (r : ResultCode) (i : SlotId) : (s.completeWith r).slot i = s.slot i := rfl
@[simp] theorem State.advance_slot (i : SlotId) : (s.advance).slot i = s.slot i := rfl
@[simp] theorem State.withHold_slot (h : Holding) (i : SlotId) : (s.withHold h).slot i = s.slot i := rfl

/-! ### Reading line after an update of another block -/

@[simp] theorem State.withSlots_line (x : Vector Slot 64) (l : LineId): (s.withSlots x).line l = s.line l := rfl
@[simp] theorem State.withPlist_line (x : List Entry) (l : LineId): (s.withPlist x).line l = s.line l := rfl
@[simp] theorem State.withDispatcher_line (x : Dispatcher) (l : LineId): (s.withDispatcher x).line l = s.line l := rfl
@[simp] theorem State.withGroups_line (x : Vector Group 8) (l : LineId): (s.withGroups x).line l = s.line l := rfl
@[simp] theorem State.withTimebase_line (x : Timebase) (l : LineId): (s.withTimebase x).line l = s.line l := rfl
@[simp] theorem State.withClock_line (x : Clock) (l : LineId): (s.withClock x).line l = s.line l := rfl
@[simp] theorem State.withCapture_line (x : CaptureUnit) (l : LineId): (s.withCapture x).line l = s.line l := rfl
@[simp] theorem State.withQueue_line (x : NotifyQueue) (l : LineId): (s.withQueue x).line l = s.line l := rfl
@[simp] theorem State.withCmd_line (x : CommandUnit) (l : LineId): (s.withCmd x).line l = s.line l := rfl
@[simp] theorem State.withWindow_line (x : Window) (l : LineId): (s.withWindow x).line l = s.line l := rfl
@[simp] theorem State.withPort_line (x : Port) (l : LineId): (s.withPort x).line l = s.line l := rfl
@[simp] theorem State.withPins_line (x : Pins) (l : LineId): (s.withPins x).line l = s.line l := rfl
@[simp] theorem State.withDraws_line (x : Nat) (l : LineId): (s.withDraws x).line l = s.line l := rfl
@[simp] theorem State.withPauses_line (x : List Nat) (l : LineId): (s.withPauses x).line l = s.line l := rfl
@[simp] theorem State.pauseTaken_line (l : LineId) : s.pauseTaken.line l = s.line l := rfl
@[simp] theorem State.withPending_line (x : List Instr) (l : LineId): (s.withPending x).line l = s.line l := rfl
@[simp] theorem State.setSlot_line (i : SlotId) (r : Slot) (l : LineId) : (s.setSlot i r).line l = s.line l := rfl
@[simp] theorem State.setGroup_line (g : GroupId) (r : Group) (l : LineId) : (s.setGroup g r).line l = s.line l := rfl
@[simp] theorem State.setChannel_line (k : ChannelId) (r : Channel) (l : LineId) : (s.setChannel k r).line l = s.line l := rfl
@[simp] theorem State.mapSlots_line (f : SlotId → Slot → Slot) (l : LineId) : (s.mapSlots f).line l = s.line l := rfl
@[simp] theorem State.mapChannels_line (f : ChannelId → Channel → Channel) (l : LineId) : (s.mapChannels f).line l = s.line l := rfl
@[simp] theorem State.insertSlot_line (i : SlotId) (l : LineId) : (s.insertSlot i).line l = s.line l := rfl
@[simp] theorem State.removeSlot_line (i : SlotId) (l : LineId) : (s.removeSlot i).line l = s.line l := rfl
@[simp] theorem State.keepDue_line (l : LineId) : (s.keepDue).line l = s.line l := rfl
@[simp] theorem State.handover_line (l : LineId) : (s.handover).line l = s.line l := rfl
@[simp] theorem State.loadTime_line (t : Tick) (e : BitVec 16) (l : LineId) : (s.loadTime t e).line l = s.line l := rfl
@[simp] theorem State.work_line (w : Work) (l : LineId) : (s.work w).line l = s.line l := rfl
@[simp] theorem State.finish_line (r : ResultCode) (l : LineId) : (s.finish r).line l = s.line l := rfl
@[simp] theorem State.taken_line (code : Byte) (l : LineId) : (s.taken code).line l = s.line l := rfl
@[simp] theorem State.collided_line (l : LineId) : (s.collided).line l = s.line l := rfl
@[simp] theorem State.completeWith_line (r : ResultCode) (l : LineId) : (s.completeWith r).line l = s.line l := rfl
@[simp] theorem State.advance_line (l : LineId) : (s.advance).line l = s.line l := rfl
@[simp] theorem State.withHold_line (h : Holding) (l : LineId) : (s.withHold h).line l = s.line l := rfl

/-! ### Reading group after an update of another block -/

@[simp] theorem State.withSlots_group (x : Vector Slot 64) (g : GroupId): (s.withSlots x).group g = s.group g := rfl
@[simp] theorem State.withPlist_group (x : List Entry) (g : GroupId): (s.withPlist x).group g = s.group g := rfl
@[simp] theorem State.withDispatcher_group (x : Dispatcher) (g : GroupId): (s.withDispatcher x).group g = s.group g := rfl
@[simp] theorem State.withLineUnit_group (x : LineUnit) (g : GroupId): (s.withLineUnit x).group g = s.group g := rfl
@[simp] theorem State.withTimebase_group (x : Timebase) (g : GroupId): (s.withTimebase x).group g = s.group g := rfl
@[simp] theorem State.withClock_group (x : Clock) (g : GroupId): (s.withClock x).group g = s.group g := rfl
@[simp] theorem State.withCapture_group (x : CaptureUnit) (g : GroupId): (s.withCapture x).group g = s.group g := rfl
@[simp] theorem State.withQueue_group (x : NotifyQueue) (g : GroupId): (s.withQueue x).group g = s.group g := rfl
@[simp] theorem State.withCmd_group (x : CommandUnit) (g : GroupId): (s.withCmd x).group g = s.group g := rfl
@[simp] theorem State.withWindow_group (x : Window) (g : GroupId): (s.withWindow x).group g = s.group g := rfl
@[simp] theorem State.withPort_group (x : Port) (g : GroupId): (s.withPort x).group g = s.group g := rfl
@[simp] theorem State.withPins_group (x : Pins) (g : GroupId): (s.withPins x).group g = s.group g := rfl
@[simp] theorem State.withDraws_group (x : Nat) (g : GroupId): (s.withDraws x).group g = s.group g := rfl
@[simp] theorem State.withPauses_group (x : List Nat) (g : GroupId): (s.withPauses x).group g = s.group g := rfl
@[simp] theorem State.pauseTaken_group (g : GroupId) : s.pauseTaken.group g = s.group g := rfl
@[simp] theorem State.withPending_group (x : List Instr) (g : GroupId): (s.withPending x).group g = s.group g := rfl
@[simp] theorem State.setSlot_group (i : SlotId) (r : Slot) (g : GroupId) : (s.setSlot i r).group g = s.group g := rfl
@[simp] theorem State.setLine_group (l : LineId) (r : Line) (g : GroupId) : (s.setLine l r).group g = s.group g := rfl
@[simp] theorem State.setChannel_group (k : ChannelId) (r : Channel) (g : GroupId) : (s.setChannel k r).group g = s.group g := rfl
@[simp] theorem State.mapSlots_group (f : SlotId → Slot → Slot) (g : GroupId) : (s.mapSlots f).group g = s.group g := rfl
@[simp] theorem State.mapLines_group (f : LineId → Line → Line) (g : GroupId) : (s.mapLines f).group g = s.group g := rfl
@[simp] theorem State.mapChannels_group (f : ChannelId → Channel → Channel) (g : GroupId) : (s.mapChannels f).group g = s.group g := rfl
@[simp] theorem State.insertSlot_group (i : SlotId) (g : GroupId) : (s.insertSlot i).group g = s.group g := rfl
@[simp] theorem State.removeSlot_group (i : SlotId) (g : GroupId) : (s.removeSlot i).group g = s.group g := rfl
@[simp] theorem State.keepDue_group (g : GroupId) : (s.keepDue).group g = s.group g := rfl
@[simp] theorem State.handover_group (g : GroupId) : (s.handover).group g = s.group g := rfl
@[simp] theorem State.loadTime_group (t : Tick) (e : BitVec 16) (g : GroupId) : (s.loadTime t e).group g = s.group g := rfl
@[simp] theorem State.work_group (w : Work) (g : GroupId) : (s.work w).group g = s.group g := rfl
@[simp] theorem State.finish_group (r : ResultCode) (g : GroupId) : (s.finish r).group g = s.group g := rfl
@[simp] theorem State.taken_group (code : Byte) (g : GroupId) : (s.taken code).group g = s.group g := rfl
@[simp] theorem State.collided_group (g : GroupId) : (s.collided).group g = s.group g := rfl
@[simp] theorem State.completeWith_group (r : ResultCode) (g : GroupId) : (s.completeWith r).group g = s.group g := rfl
@[simp] theorem State.advance_group (g : GroupId) : (s.advance).group g = s.group g := rfl
@[simp] theorem State.withHold_group (h : Holding) (g : GroupId) : (s.withHold h).group g = s.group g := rfl

/-! ### Reading channel after an update of another block -/

@[simp] theorem State.withSlots_channel (x : Vector Slot 64) (k : ChannelId): (s.withSlots x).channel k = s.channel k := rfl
@[simp] theorem State.withPlist_channel (x : List Entry) (k : ChannelId): (s.withPlist x).channel k = s.channel k := rfl
@[simp] theorem State.withDispatcher_channel (x : Dispatcher) (k : ChannelId): (s.withDispatcher x).channel k = s.channel k := rfl
@[simp] theorem State.withLineUnit_channel (x : LineUnit) (k : ChannelId): (s.withLineUnit x).channel k = s.channel k := rfl
@[simp] theorem State.withGroups_channel (x : Vector Group 8) (k : ChannelId): (s.withGroups x).channel k = s.channel k := rfl
@[simp] theorem State.withTimebase_channel (x : Timebase) (k : ChannelId): (s.withTimebase x).channel k = s.channel k := rfl
@[simp] theorem State.withClock_channel (x : Clock) (k : ChannelId): (s.withClock x).channel k = s.channel k := rfl
@[simp] theorem State.withQueue_channel (x : NotifyQueue) (k : ChannelId): (s.withQueue x).channel k = s.channel k := rfl
@[simp] theorem State.withCmd_channel (x : CommandUnit) (k : ChannelId): (s.withCmd x).channel k = s.channel k := rfl
@[simp] theorem State.withWindow_channel (x : Window) (k : ChannelId): (s.withWindow x).channel k = s.channel k := rfl
@[simp] theorem State.withPort_channel (x : Port) (k : ChannelId): (s.withPort x).channel k = s.channel k := rfl
@[simp] theorem State.withPins_channel (x : Pins) (k : ChannelId): (s.withPins x).channel k = s.channel k := rfl
@[simp] theorem State.withDraws_channel (x : Nat) (k : ChannelId): (s.withDraws x).channel k = s.channel k := rfl
@[simp] theorem State.withPauses_channel (x : List Nat) (k : ChannelId): (s.withPauses x).channel k = s.channel k := rfl
@[simp] theorem State.pauseTaken_channel (k : ChannelId) : s.pauseTaken.channel k = s.channel k := rfl
@[simp] theorem State.withPending_channel (x : List Instr) (k : ChannelId): (s.withPending x).channel k = s.channel k := rfl
@[simp] theorem State.setSlot_channel (i : SlotId) (r : Slot) (k : ChannelId) : (s.setSlot i r).channel k = s.channel k := rfl
@[simp] theorem State.setLine_channel (l : LineId) (r : Line) (k : ChannelId) : (s.setLine l r).channel k = s.channel k := rfl
@[simp] theorem State.setGroup_channel (g : GroupId) (r : Group) (k : ChannelId) : (s.setGroup g r).channel k = s.channel k := rfl
@[simp] theorem State.mapSlots_channel (f : SlotId → Slot → Slot) (k : ChannelId) : (s.mapSlots f).channel k = s.channel k := rfl
@[simp] theorem State.mapLines_channel (f : LineId → Line → Line) (k : ChannelId) : (s.mapLines f).channel k = s.channel k := rfl
@[simp] theorem State.insertSlot_channel (i : SlotId) (k : ChannelId) : (s.insertSlot i).channel k = s.channel k := rfl
@[simp] theorem State.removeSlot_channel (i : SlotId) (k : ChannelId) : (s.removeSlot i).channel k = s.channel k := rfl
@[simp] theorem State.keepDue_channel (k : ChannelId) : (s.keepDue).channel k = s.channel k := rfl
@[simp] theorem State.handover_channel (k : ChannelId) : (s.handover).channel k = s.channel k := rfl
@[simp] theorem State.loadTime_channel (t : Tick) (e : BitVec 16) (k : ChannelId) : (s.loadTime t e).channel k = s.channel k := rfl
@[simp] theorem State.work_channel (w : Work) (k : ChannelId) : (s.work w).channel k = s.channel k := rfl
@[simp] theorem State.finish_channel (r : ResultCode) (k : ChannelId) : (s.finish r).channel k = s.channel k := rfl
@[simp] theorem State.taken_channel (code : Byte) (k : ChannelId) : (s.taken code).channel k = s.channel k := rfl
@[simp] theorem State.collided_channel (k : ChannelId) : (s.collided).channel k = s.channel k := rfl
@[simp] theorem State.completeWith_channel (r : ResultCode) (k : ChannelId) : (s.completeWith r).channel k = s.channel k := rfl
@[simp] theorem State.advance_channel (k : ChannelId) : (s.advance).channel k = s.channel k := rfl
@[simp] theorem State.withHold_channel (h : Holding) (k : ChannelId) : (s.withHold h).channel k = s.channel k := rfl

/-! ### Reading inputLevel after an update of another block -/

@[simp] theorem State.withSlots_inputLevel (x : Vector Slot 64) (k : ChannelId): (s.withSlots x).inputLevel k = s.inputLevel k := rfl
@[simp] theorem State.withPlist_inputLevel (x : List Entry) (k : ChannelId): (s.withPlist x).inputLevel k = s.inputLevel k := rfl
@[simp] theorem State.withDispatcher_inputLevel (x : Dispatcher) (k : ChannelId): (s.withDispatcher x).inputLevel k = s.inputLevel k := rfl
@[simp] theorem State.withLineUnit_inputLevel (x : LineUnit) (k : ChannelId): (s.withLineUnit x).inputLevel k = s.inputLevel k := rfl
@[simp] theorem State.withGroups_inputLevel (x : Vector Group 8) (k : ChannelId): (s.withGroups x).inputLevel k = s.inputLevel k := rfl
@[simp] theorem State.withTimebase_inputLevel (x : Timebase) (k : ChannelId): (s.withTimebase x).inputLevel k = s.inputLevel k := rfl
@[simp] theorem State.withClock_inputLevel (x : Clock) (k : ChannelId): (s.withClock x).inputLevel k = s.inputLevel k := rfl
@[simp] theorem State.withCapture_inputLevel (x : CaptureUnit) (k : ChannelId): (s.withCapture x).inputLevel k = s.inputLevel k := rfl
@[simp] theorem State.withQueue_inputLevel (x : NotifyQueue) (k : ChannelId): (s.withQueue x).inputLevel k = s.inputLevel k := rfl
@[simp] theorem State.withCmd_inputLevel (x : CommandUnit) (k : ChannelId): (s.withCmd x).inputLevel k = s.inputLevel k := rfl
@[simp] theorem State.withWindow_inputLevel (x : Window) (k : ChannelId): (s.withWindow x).inputLevel k = s.inputLevel k := rfl
@[simp] theorem State.withPort_inputLevel (x : Port) (k : ChannelId): (s.withPort x).inputLevel k = s.inputLevel k := rfl
@[simp] theorem State.withDraws_inputLevel (x : Nat) (k : ChannelId): (s.withDraws x).inputLevel k = s.inputLevel k := rfl
@[simp] theorem State.withPauses_inputLevel (x : List Nat) (k : ChannelId): (s.withPauses x).inputLevel k = s.inputLevel k := rfl
@[simp] theorem State.pauseTaken_inputLevel (k : ChannelId) : s.pauseTaken.inputLevel k = s.inputLevel k := rfl
@[simp] theorem State.withPending_inputLevel (x : List Instr) (k : ChannelId): (s.withPending x).inputLevel k = s.inputLevel k := rfl
@[simp] theorem State.setSlot_inputLevel (i : SlotId) (r : Slot) (k : ChannelId) : (s.setSlot i r).inputLevel k = s.inputLevel k := rfl
@[simp] theorem State.setLine_inputLevel (l : LineId) (r : Line) (k : ChannelId) : (s.setLine l r).inputLevel k = s.inputLevel k := rfl
@[simp] theorem State.setGroup_inputLevel (g : GroupId) (r : Group) (k : ChannelId) : (s.setGroup g r).inputLevel k = s.inputLevel k := rfl
@[simp] theorem State.setChannel_inputLevel (k' : ChannelId) (r : Channel) (k : ChannelId) : (s.setChannel k' r).inputLevel k = s.inputLevel k := rfl
@[simp] theorem State.mapSlots_inputLevel (f : SlotId → Slot → Slot) (k : ChannelId) : (s.mapSlots f).inputLevel k = s.inputLevel k := rfl
@[simp] theorem State.mapLines_inputLevel (f : LineId → Line → Line) (k : ChannelId) : (s.mapLines f).inputLevel k = s.inputLevel k := rfl
@[simp] theorem State.mapChannels_inputLevel (f : ChannelId → Channel → Channel) (k : ChannelId) : (s.mapChannels f).inputLevel k = s.inputLevel k := rfl
@[simp] theorem State.insertSlot_inputLevel (i : SlotId) (k : ChannelId) : (s.insertSlot i).inputLevel k = s.inputLevel k := rfl
@[simp] theorem State.removeSlot_inputLevel (i : SlotId) (k : ChannelId) : (s.removeSlot i).inputLevel k = s.inputLevel k := rfl
@[simp] theorem State.keepDue_inputLevel (k : ChannelId) : (s.keepDue).inputLevel k = s.inputLevel k := rfl
@[simp] theorem State.handover_inputLevel (k : ChannelId) : (s.handover).inputLevel k = s.inputLevel k := rfl
@[simp] theorem State.loadTime_inputLevel (t : Tick) (e : BitVec 16) (k : ChannelId) : (s.loadTime t e).inputLevel k = s.inputLevel k := rfl
@[simp] theorem State.work_inputLevel (w : Work) (k : ChannelId) : (s.work w).inputLevel k = s.inputLevel k := rfl
@[simp] theorem State.finish_inputLevel (r : ResultCode) (k : ChannelId) : (s.finish r).inputLevel k = s.inputLevel k := rfl
@[simp] theorem State.taken_inputLevel (code : Byte) (k : ChannelId) : (s.taken code).inputLevel k = s.inputLevel k := rfl
@[simp] theorem State.collided_inputLevel (k : ChannelId) : (s.collided).inputLevel k = s.inputLevel k := rfl
@[simp] theorem State.completeWith_inputLevel (r : ResultCode) (k : ChannelId) : (s.completeWith r).inputLevel k = s.inputLevel k := rfl
@[simp] theorem State.advance_inputLevel (k : ChannelId) : (s.advance).inputLevel k = s.inputLevel k := rfl
@[simp] theorem State.withHold_inputLevel (h : Holding) (k : ChannelId) : (s.withHold h).inputLevel k = s.inputLevel k := rfl

/-! ### Reading now after an update of another block -/

@[simp] theorem State.withSlots_now (x : Vector Slot 64) : (s.withSlots x).now = s.now := rfl
@[simp] theorem State.withPlist_now (x : List Entry) : (s.withPlist x).now = s.now := rfl
@[simp] theorem State.withDispatcher_now (x : Dispatcher) : (s.withDispatcher x).now = s.now := rfl
@[simp] theorem State.withLineUnit_now (x : LineUnit) : (s.withLineUnit x).now = s.now := rfl
@[simp] theorem State.withGroups_now (x : Vector Group 8) : (s.withGroups x).now = s.now := rfl
@[simp] theorem State.withClock_now (x : Clock) : (s.withClock x).now = s.now := rfl
@[simp] theorem State.withCapture_now (x : CaptureUnit) : (s.withCapture x).now = s.now := rfl
@[simp] theorem State.withQueue_now (x : NotifyQueue) : (s.withQueue x).now = s.now := rfl
@[simp] theorem State.withCmd_now (x : CommandUnit) : (s.withCmd x).now = s.now := rfl
@[simp] theorem State.withWindow_now (x : Window) : (s.withWindow x).now = s.now := rfl
@[simp] theorem State.withPort_now (x : Port) : (s.withPort x).now = s.now := rfl
@[simp] theorem State.withPins_now (x : Pins) : (s.withPins x).now = s.now := rfl
@[simp] theorem State.withDraws_now (x : Nat) : (s.withDraws x).now = s.now := rfl
@[simp] theorem State.withPauses_now (x : List Nat) : (s.withPauses x).now = s.now := rfl
@[simp] theorem State.pauseTaken_now : s.pauseTaken.now = s.now := rfl
@[simp] theorem State.withPending_now (x : List Instr) : (s.withPending x).now = s.now := rfl
@[simp] theorem State.setSlot_now (i : SlotId) (r : Slot) : (s.setSlot i r).now = s.now := rfl
@[simp] theorem State.setLine_now (l : LineId) (r : Line) : (s.setLine l r).now = s.now := rfl
@[simp] theorem State.setGroup_now (g : GroupId) (r : Group) : (s.setGroup g r).now = s.now := rfl
@[simp] theorem State.setChannel_now (k : ChannelId) (r : Channel) : (s.setChannel k r).now = s.now := rfl
@[simp] theorem State.mapSlots_now (f : SlotId → Slot → Slot) : (s.mapSlots f).now = s.now := rfl
@[simp] theorem State.mapLines_now (f : LineId → Line → Line) : (s.mapLines f).now = s.now := rfl
@[simp] theorem State.mapChannels_now (f : ChannelId → Channel → Channel) : (s.mapChannels f).now = s.now := rfl
@[simp] theorem State.insertSlot_now (i : SlotId) : (s.insertSlot i).now = s.now := rfl
@[simp] theorem State.removeSlot_now (i : SlotId) : (s.removeSlot i).now = s.now := rfl
@[simp] theorem State.keepDue_now : (s.keepDue).now = s.now := rfl
@[simp] theorem State.work_now (w : Work) : (s.work w).now = s.now := rfl
@[simp] theorem State.finish_now (r : ResultCode) : (s.finish r).now = s.now := rfl
@[simp] theorem State.taken_now (code : Byte) : (s.taken code).now = s.now := rfl
@[simp] theorem State.collided_now : (s.collided).now = s.now := rfl
@[simp] theorem State.completeWith_now (r : ResultCode) : (s.completeWith r).now = s.now := rfl
@[simp] theorem State.advance_now : (s.advance).now = s.now := rfl
@[simp] theorem State.withHold_now (h : Holding) : (s.withHold h).now = s.now := rfl

/-! ### Reading busy after an update of another block -/

@[simp] theorem State.withSlots_busy (x : Vector Slot 64) : (s.withSlots x).busy = s.busy := rfl
@[simp] theorem State.withPlist_busy (x : List Entry) : (s.withPlist x).busy = s.busy := rfl
@[simp] theorem State.withDispatcher_busy (x : Dispatcher) : (s.withDispatcher x).busy = s.busy := rfl
@[simp] theorem State.withLineUnit_busy (x : LineUnit) : (s.withLineUnit x).busy = s.busy := rfl
@[simp] theorem State.withGroups_busy (x : Vector Group 8) : (s.withGroups x).busy = s.busy := rfl
@[simp] theorem State.withTimebase_busy (x : Timebase) : (s.withTimebase x).busy = s.busy := rfl
@[simp] theorem State.withClock_busy (x : Clock) : (s.withClock x).busy = s.busy := rfl
@[simp] theorem State.withCapture_busy (x : CaptureUnit) : (s.withCapture x).busy = s.busy := rfl
@[simp] theorem State.withQueue_busy (x : NotifyQueue) : (s.withQueue x).busy = s.busy := rfl
@[simp] theorem State.withWindow_busy (x : Window) : (s.withWindow x).busy = s.busy := rfl
@[simp] theorem State.withPort_busy (x : Port) : (s.withPort x).busy = s.busy := rfl
@[simp] theorem State.withPins_busy (x : Pins) : (s.withPins x).busy = s.busy := rfl
@[simp] theorem State.withDraws_busy (x : Nat) : (s.withDraws x).busy = s.busy := rfl
@[simp] theorem State.withPauses_busy (x : List Nat) : (s.withPauses x).busy = s.busy := rfl
@[simp] theorem State.pauseTaken_busy : s.pauseTaken.busy = s.busy := rfl
@[simp] theorem State.withPending_busy (x : List Instr) : (s.withPending x).busy = s.busy := rfl
@[simp] theorem State.setSlot_busy (i : SlotId) (r : Slot) : (s.setSlot i r).busy = s.busy := rfl
@[simp] theorem State.setLine_busy (l : LineId) (r : Line) : (s.setLine l r).busy = s.busy := rfl
@[simp] theorem State.setGroup_busy (g : GroupId) (r : Group) : (s.setGroup g r).busy = s.busy := rfl
@[simp] theorem State.setChannel_busy (k : ChannelId) (r : Channel) : (s.setChannel k r).busy = s.busy := rfl
@[simp] theorem State.mapSlots_busy (f : SlotId → Slot → Slot) : (s.mapSlots f).busy = s.busy := rfl
@[simp] theorem State.mapLines_busy (f : LineId → Line → Line) : (s.mapLines f).busy = s.busy := rfl
@[simp] theorem State.mapChannels_busy (f : ChannelId → Channel → Channel) : (s.mapChannels f).busy = s.busy := rfl
@[simp] theorem State.insertSlot_busy (i : SlotId) : (s.insertSlot i).busy = s.busy := rfl
@[simp] theorem State.removeSlot_busy (i : SlotId) : (s.removeSlot i).busy = s.busy := rfl
@[simp] theorem State.keepDue_busy : (s.keepDue).busy = s.busy := rfl
@[simp] theorem State.handover_busy : (s.handover).busy = s.busy := rfl
@[simp] theorem State.loadTime_busy (t : Tick) (e : BitVec 16) : (s.loadTime t e).busy = s.busy := rfl
@[simp] theorem State.advance_busy : (s.advance).busy = s.busy := rfl
@[simp] theorem State.withHold_busy (h : Holding) : (s.withHold h).busy = s.busy := rfl

/-! ### Reading listed after an update of another block -/

@[simp] theorem State.withSlots_listed (x : Vector Slot 64) (i : SlotId): (s.withSlots x).listed i = s.listed i := rfl
@[simp] theorem State.withDispatcher_listed (x : Dispatcher) (i : SlotId): (s.withDispatcher x).listed i = s.listed i := rfl
@[simp] theorem State.withLineUnit_listed (x : LineUnit) (i : SlotId): (s.withLineUnit x).listed i = s.listed i := rfl
@[simp] theorem State.withGroups_listed (x : Vector Group 8) (i : SlotId): (s.withGroups x).listed i = s.listed i := rfl
@[simp] theorem State.withTimebase_listed (x : Timebase) (i : SlotId): (s.withTimebase x).listed i = s.listed i := rfl
@[simp] theorem State.withClock_listed (x : Clock) (i : SlotId): (s.withClock x).listed i = s.listed i := rfl
@[simp] theorem State.withCapture_listed (x : CaptureUnit) (i : SlotId): (s.withCapture x).listed i = s.listed i := rfl
@[simp] theorem State.withQueue_listed (x : NotifyQueue) (i : SlotId): (s.withQueue x).listed i = s.listed i := rfl
@[simp] theorem State.withCmd_listed (x : CommandUnit) (i : SlotId): (s.withCmd x).listed i = s.listed i := rfl
@[simp] theorem State.withWindow_listed (x : Window) (i : SlotId): (s.withWindow x).listed i = s.listed i := rfl
@[simp] theorem State.withPort_listed (x : Port) (i : SlotId): (s.withPort x).listed i = s.listed i := rfl
@[simp] theorem State.withPins_listed (x : Pins) (i : SlotId): (s.withPins x).listed i = s.listed i := rfl
@[simp] theorem State.withDraws_listed (x : Nat) (i : SlotId): (s.withDraws x).listed i = s.listed i := rfl
@[simp] theorem State.withPauses_listed (x : List Nat) (i : SlotId): (s.withPauses x).listed i = s.listed i := rfl
@[simp] theorem State.pauseTaken_listed (i : SlotId) : s.pauseTaken.listed i = s.listed i := rfl
@[simp] theorem State.withPending_listed (x : List Instr) (i : SlotId): (s.withPending x).listed i = s.listed i := rfl
@[simp] theorem State.setSlot_listed (i' : SlotId) (r : Slot) (i : SlotId) : (s.setSlot i' r).listed i = s.listed i := rfl
@[simp] theorem State.setLine_listed (l : LineId) (r : Line) (i : SlotId) : (s.setLine l r).listed i = s.listed i := rfl
@[simp] theorem State.setGroup_listed (g : GroupId) (r : Group) (i : SlotId) : (s.setGroup g r).listed i = s.listed i := rfl
@[simp] theorem State.setChannel_listed (k : ChannelId) (r : Channel) (i : SlotId) : (s.setChannel k r).listed i = s.listed i := rfl
@[simp] theorem State.mapSlots_listed (f : SlotId → Slot → Slot) (i : SlotId) : (s.mapSlots f).listed i = s.listed i := rfl
@[simp] theorem State.mapLines_listed (f : LineId → Line → Line) (i : SlotId) : (s.mapLines f).listed i = s.listed i := rfl
@[simp] theorem State.mapChannels_listed (f : ChannelId → Channel → Channel) (i : SlotId) : (s.mapChannels f).listed i = s.listed i := rfl
@[simp] theorem State.handover_listed (i : SlotId) : (s.handover).listed i = s.listed i := rfl
@[simp] theorem State.loadTime_listed (t : Tick) (e : BitVec 16) (i : SlotId) : (s.loadTime t e).listed i = s.listed i := rfl
@[simp] theorem State.work_listed (w : Work) (i : SlotId) : (s.work w).listed i = s.listed i := rfl
@[simp] theorem State.finish_listed (r : ResultCode) (i : SlotId) : (s.finish r).listed i = s.listed i := rfl
@[simp] theorem State.taken_listed (code : Byte) (i : SlotId) : (s.taken code).listed i = s.listed i := rfl
@[simp] theorem State.collided_listed (i : SlotId) : (s.collided).listed i = s.listed i := rfl
@[simp] theorem State.completeWith_listed (r : ResultCode) (i : SlotId) : (s.completeWith r).listed i = s.listed i := rfl
@[simp] theorem State.advance_listed (i : SlotId) : (s.advance).listed i = s.listed i := rfl
@[simp] theorem State.withHold_listed (h : Holding) (i : SlotId) : (s.withHold h).listed i = s.listed i := rfl

/-! ### Reading a record after it, or another, is written -/

@[simp] theorem State.setSlot_slot_self (i : SlotId) (r : Slot) : (s.setSlot i r).slot i = r := by
  simp [State.slot, State.setSlot]

theorem State.setSlot_slot_of_ne {i j : SlotId} (h : i ≠ j) (r : Slot) : (s.setSlot i r).slot j = s.slot j := by
  have h' : i.val ≠ j.val := fun e => h (Fin.ext e)
  simp [State.slot, State.setSlot, h']

theorem State.setSlot_slot (i j : SlotId) (r : Slot) : (s.setSlot i r).slot j = if i = j then r else s.slot j := by
  split
  · next h => subst h; simp
  · next h => exact s.setSlot_slot_of_ne h r

@[simp] theorem State.setLine_line_self (l : LineId) (r : Line) : (s.setLine l r).line l = r := by
  simp [State.line, State.setLine]

theorem State.setLine_line_of_ne {l m : LineId} (h : l ≠ m) (r : Line) : (s.setLine l r).line m = s.line m := by
  have h' : l.val ≠ m.val := fun e => h (Fin.ext e)
  simp [State.line, State.setLine, h']

theorem State.setLine_line (l m : LineId) (r : Line) : (s.setLine l r).line m = if l = m then r else s.line m := by
  split
  · next h => subst h; simp
  · next h => exact s.setLine_line_of_ne h r

@[simp] theorem State.setGroup_group_self (g : GroupId) (r : Group) : (s.setGroup g r).group g = r := by
  simp [State.group, State.setGroup]

theorem State.setGroup_group_of_ne {g h : GroupId} (ne : g ≠ h) (r : Group) : (s.setGroup g r).group h = s.group h := by
  have ne' : g.val ≠ h.val := fun e => ne (Fin.ext e)
  simp [State.group, State.setGroup, ne']

theorem State.setGroup_group (g h : GroupId) (r : Group) : (s.setGroup g r).group h = if g = h then r else s.group h := by
  split
  · next e => subst e; simp
  · next e => exact s.setGroup_group_of_ne e r

@[simp] theorem State.setChannel_channel_self (k : ChannelId) (r : Channel) : (s.setChannel k r).channel k = r := by
  simp [State.channel, State.setChannel]

theorem State.setChannel_channel_of_ne {k m : ChannelId} (h : k ≠ m) (r : Channel) : (s.setChannel k r).channel m = s.channel m := by
  have h' : k.val ≠ m.val := fun e => h (Fin.ext e)
  simp [State.channel, State.setChannel, h']

theorem State.setChannel_channel (k m : ChannelId) (r : Channel) : (s.setChannel k r).channel m = if k = m then r else s.channel m := by
  split
  · next h => subst h; simp
  · next h => exact s.setChannel_channel_of_ne h r

@[simp] theorem State.mapSlots_slot (f : SlotId → Slot → Slot) (i : SlotId) : (s.mapSlots f).slot i = f i (s.slot i) := by
  simp [State.slot, State.mapSlots]

@[simp] theorem State.mapLines_line (f : LineId → Line → Line) (l : LineId) : (s.mapLines f).line l = f l (s.line l) := by
  simp [State.line, State.mapLines]

@[simp] theorem State.mapChannels_channel (f : ChannelId → Channel → Channel) (k : ChannelId) : (s.mapChannels f).channel k = f k (s.channel k) := by
  simp [State.channel, State.mapChannels]

end Sys2Proof.Machine
end

