-- ==== Sys2Proof/Laws/Ops.lean ====
section
/-! SUPPORT. For each shared operation what it does, said once: the taking of a command, posts, the Pending List,
arming, disarming, lines. The provers cite these and unfold nothing. -/

namespace Sys2Proof.Machine

/-! ### Times (R92) -/

/-- A signed distance lies within 2^31 of zero. -/
theorem signedDistance_bounds (x t : Tick) : -2147483648 ≤ signedDistance x t ∧ signedDistance x t < 2147483648 := by
  simp only [signedDistance, BitVec.toInt_eq_toNat_cond]
  have := (x - t).isLt
  split <;> omega

/-- Shifting both times keeps their distance (R98). -/
@[simp] theorem signedDistance_shift (x t d : Tick) : signedDistance (x + d) (t + d) = signedDistance x t := by
  simp only [signedDistance]
  congr 1
  ring

/-- Loading T with `n` and shifting a time by new T minus old T keeps its distance (R98, R101). -/
@[simp] theorem signedDistance_load (x n t : Tick) : signedDistance (x + (n - t)) n = signedDistance x t := by
  simp only [signedDistance]
  congr 1
  ring

/-- A time that lies a non-negative 31-bit distance after T has that distance. -/
theorem signedDistance_after {t d : Tick} (h : d.toNat < 2147483648) : signedDistance (t + d) t = d.toNat := by
  have : t + d - t = d := by ring
  rw [signedDistance, this, BitVec.toInt_eq_toNat_cond, if_pos (by omega)]

/-- A saturating count. -/
theorem satAdd16_toNat (x : BitVec 16) (n : Nat) : (satAdd16 x n).toNat = min (x.toNat + n) 65535 := by
  simp only [satAdd16, BitVec.toNat_ofNat]
  omega

/-! ### Argument bytes (R146) -/

/-- A byte below `n` stands for its number. -/
theorem numberBelow_eq {n : Nat} {b : Byte} {i : Fin n} (h : b.toNat = i.val) : numberBelow n b = some i := by
  simp [numberBelow, h]

/-- A byte not below `n` stands for none. -/
theorem numberBelow_none {n : Nat} {b : Byte} (h : n ≤ b.toNat) : numberBelow n b = none := by
  simp [numberBelow, h]

/-- The slot an argument byte names (R10). -/
theorem slotArg_eq {b : Byte} {i : SlotId} (h : b.toNat = i.val) : slotArg b = some i := numberBelow_eq h
/-- A byte above 63 names no slot (R10). -/
theorem slotArg_none {b : Byte} (h : 64 ≤ b.toNat) : slotArg b = none := numberBelow_none h
/-- The group an argument byte names (R80). -/
theorem groupArg_eq {b : Byte} {g : GroupId} (h : b.toNat = g.val) : groupArg b = some g := numberBelow_eq h
/-- A byte above 7 names no group (R80). -/
theorem groupArg_none {b : Byte} (h : 8 ≤ b.toNat) : groupArg b = none := numberBelow_none h
/-- The line an argument byte names (R66). -/
theorem lineArg_eq {b : Byte} {l : LineId} (h : b.toNat = l.val) : lineArg b = some l := numberBelow_eq h
/-- A byte above 15 names no line (R66). -/
theorem lineArg_none {b : Byte} (h : 16 ≤ b.toNat) : lineArg b = none := numberBelow_none h

/-! ### Where a byte reaches the part (R141, R143, R153) -/

/-- A byte that completes at the address acts, and the port moves on. -/
theorem writeAt_eq {s : State} {a : Addr} (h : WritesAt s a) (act : State → State) :
    s.writeAt a act = (act s).advance := by
  simp [State.writeAt, h.1, h.2]

/-- No byte completes at the address, so nothing happens (log 2). -/
theorem writeAt_elsewhere {s : State} {a : Addr} (h : ¬ WritesAt s a) (act : State → State) :
    s.writeAt a act = s := by
  simp only [State.writeAt]
  exact if_neg h

/-- A taking hands the command to its owner (R141). -/
theorem writeCmdByte_taken {s : State} (h : TakesCommand s) (code : Byte) (owner : State → State) :
    s.writeCmdByte code owner = (owner (s.taken code)).advance := by
  obtain ⟨h1, h2⟩ := h
  rw [State.writeCmdByte, writeAt_eq h1]
  simp [State.writeCommand, State.busy, h2]

/-- A write of CMD while BUSY collides (R143). -/
theorem writeCmdByte_busy {s : State} {w : Work} (h : WritesAt s cmdAddr) (hw : s.cmd.inHand = some w)
    (code : Byte) (owner : State → State) :
    s.writeCmdByte code owner = { s with cmd := { s.cmd with collide := true }, port := portPast s } := by
  have hb : s.busy = true := by simp [State.busy, hw]
  rw [State.writeCmdByte, writeAt_eq h, State.writeCommand, if_pos hb]
  rfl

/-- No byte completes at CMD (log 2). -/
theorem writeCmdByte_elsewhere {s : State} (h : ¬ WritesAt s cmdAddr) (code : Byte) (owner : State → State) :
    s.writeCmdByte code owner = s := writeAt_elsewhere h _

/-- The argument bytes that an owner sees are those of the taking (R141). -/
@[simp] theorem taken_arg (s : State) (code : Byte) (k : Fin 8) : (s.taken code).arg k = argNow s k := rfl
@[simp] theorem taken_argWord1 (s : State) (code : Byte) : (s.taken code).argWord1 = argWordNow s := rfl
@[simp] theorem taken_argTime (s : State) (code : Byte) : (s.taken code).argTime = argTimeNow s := rfl
@[simp] theorem taken_argEpoch (s : State) (code : Byte) :
    (s.taken code).argEpoch = argNow s 5 ++ argNow s 4 := rfl
@[simp] theorem taken_captured (s : State) (code : Byte) :
    (s.taken code).cmd.captured.staging = s.cmd.staging := rfl

/-- A command that its owner answers at once. -/
theorem taken_finish (s : State) (code : Byte) (r : ResultCode) :
    ((s.taken code).finish r).advance = answered s code r := rfl

/-! ### Posts (R131, R133) -/

/-- A post changes the queue alone. -/
theorem post_eq (s : State) (stamp : Tick) (body : NotificationBody) :
    s.post stamp body = { s with queue := queueAfter s.now s.queue ⟨stamp, body⟩ } := by
  simp only [State.post, queueAfter]
  split <;> rfl

/-- A conditional post changes the queue alone. -/
theorem postIf_eq (s : State) (stamp : Tick) (body : Option NotificationBody) :
    s.postIf stamp body
      = { s with queue := queueAfterAll s.now s.queue ((body.map fun b => ⟨stamp, b⟩).toList) } := by
  cases body with
  | none => rfl
  | some b => exact post_eq s stamp b

/-- Posts in turn. -/
theorem queueAfterAll_append (now : Tick) (q : NotifyQueue) (xs ys : List Notification) :
    queueAfterAll now q (xs ++ ys) = queueAfterAll now (queueAfterAll now q xs) ys := by
  simp [queueAfterAll]

@[simp] theorem queueAfterAll_nil (now : Tick) (q : NotifyQueue) : queueAfterAll now q [] = q := rfl

@[simp] theorem queueAfterAll_one (now : Tick) (q : NotifyQueue) (n : Notification) :
    queueAfterAll now q [n] = queueAfter now q n := rfl

/-- A post leaves the settings of the queue alone. -/
theorem queueAfter_settings (now : Tick) (q : NotifyQueue) (n : Notification) :
    queueAfter now q n = { q with entries := (queueAfter now q n).entries } := by
  simp only [queueAfter]
  split <;> rfl

/-- Posts leave the settings of the queue alone. -/
theorem queueAfterAll_settings (now : Tick) (ns : List Notification) (q : NotifyQueue) :
    queueAfterAll now q ns = { q with entries := (queueAfterAll now q ns).entries } := by
  induction ns generalizing q with
  | nil => rfl
  | cons n rest ih =>
    refine (ih (queueAfter now q n)).trans ?_
    show NotifyQueue.mk _ _ _ _ = NotifyQueue.mk _ _ _ _
    congr 1 <;> simp only [queueAfter] <;> split <;> rfl

/-! ### The Pending List (R27 to R30) -/

/-- An insertion looks at the entries of the list alone. -/
theorem insertEntry_congr {key key' : Entry → Int} {list : List Entry} (h : ∀ e ∈ list, key e = key' e)
    (d : Int) (new : Entry) : insertEntry key d new list = insertEntry key' d new list := by
  induction list with
  | nil => rfl
  | cons e rest ih =>
    simp only [insertEntry, h e (by simp)]
    rw [ih fun x hx => h x (by simp [hx])]

/-- What an insertion adds is the new entry. -/
theorem mem_insertEntry {key : Entry → Int} {d : Int} {new e : Entry} {list : List Entry} :
    e ∈ insertEntry key d new list ↔ e = new ∨ e ∈ list := by
  induction list with
  | nil => simp [insertEntry]
  | cons x rest ih =>
    simp only [insertEntry]
    split
    · simp only [List.mem_cons, ih]; tauto
    · simp only [List.mem_cons]

/-- An insertion is the list with the new entry, in some order. -/
theorem insertEntry_perm (key : Entry → Int) (d : Int) (new : Entry) (list : List Entry) :
    (insertEntry key d new list).Perm (new :: list) := by
  induction list with
  | nil => exact List.Perm.refl _
  | cons x rest ih =>
    simp only [insertEntry]
    split
    · exact (ih.cons x).trans (List.Perm.swap _ _ _)
    · exact List.Perm.refl _

/-- The slot whose stage five is still to come is one that a fire has claimed (R27, R38). -/
theorem firedSlot_of_unplaced {s : State} {i : SlotId} (h : s.unplaced = some i) : s.firedSlot = some i := by
  unfold State.unplaced at h
  unfold State.firedSlot
  split at h <;> simp_all

/-- A slot that is not PENDING has no entry (R27). -/
theorem not_listed {s : State} (hm : ListMatchesSlots s) {i : SlotId} (h : (s.slot i).state ≠ .pending) :
    ∀ e ∈ s.plist, e.slot ≠ i := by
  intro e he hi
  have hi' := hm.2 i
  split at hi'
  · exact h hi'.1
  · refine h (hi'.1 ?_)
    simp only [State.listed, List.any_eq_true]
    exact ⟨e, he, by simp [hi]⟩

/-- A PENDING slot that no fire has claimed has an entry (R27). -/
theorem listed_entry {s : State} (hm : ListMatchesSlots s) {i : SlotId} (hf : NotFired s i)
    (h : (s.slot i).state = .pending) : ∃ e ∈ s.plist, e.slot = i := by
  have hi := hm.2 i
  rw [if_neg fun hu => hf (firedSlot_of_unplaced hu)] at hi
  have := hi.2 h
  simp only [State.listed, List.any_eq_true] at this
  obtain ⟨e, he, hi⟩ := this
  exact ⟨e, he, by simpa using hi⟩

/-- The slot whose stage five is still to come has no entry (R27). -/
theorem unplaced_not_listed {s : State} (hm : ListMatchesSlots s) {i : SlotId} (h : s.unplaced = some i) :
    ∀ e ∈ s.plist, e.slot ≠ i := by
  have hi := hm.2 i
  rw [if_pos h] at hi
  simpa [State.listed] using hi.2

/-- Writing one slot's record leaves the distances of the other slots' entries. -/
theorem setSlot_entryDist (s : State) {i : SlotId} (r : Slot) (t : Tick) {e : Entry} (h : e.slot ≠ i) :
    (s.setSlot i r).entryDist t e = s.entryDist t e := by
  rw [State.entryDist, State.entryDist, s.setSlot_slot_of_ne (fun h' => h h'.symm)]

/-- A slot without an entry gets one where its record's due time puts it (R29). -/
theorem setSlot_insertSlot {s : State} {i : SlotId} (hn : ∀ e ∈ s.plist, e.slot ≠ i) (r : Slot) :
    (s.setSlot i r).insertSlot i = { s with
      slots := s.slots.set i r
      plist := insertEntry (s.entryDist s.now) (signedDistance r.due s.now) ⟨i, false⟩ s.plist } := by
  have := insertEntry_congr (fun e he => setSlot_entryDist s r s.now (hn e he))
    (signedDistance r.due s.now) ⟨i, false⟩
  simp only [State.insertSlot, State.setSlot_slot_self]
  simp only [State.setSlot_now, State.setSlot_plist, this]
  rfl

/-- A slot's entry moves to where its new record's due time puts it (R29, R30). -/
theorem reinsertSlot_eq (s : State) (i : SlotId) (r : Slot) :
    ((s.removeSlot i).setSlot i r).insertSlot i = { s with
      slots := s.slots.set i r
      plist := insertEntry (s.entryDist s.now) (signedDistance r.due s.now) ⟨i, false⟩
        (s.plist.filter fun e => e.slot != i) } := by
  rw [setSlot_insertSlot]
  · rfl
  · intro e he
    have : e ∈ s.plist.filter (fun e => e.slot != i) := he
    simpa using (List.mem_filter.1 this).2

/-! ### Arming and disarming (R16, R18) -/

/-- Placing a slot that has no entry writes its record and, its group not suspended, inserts it (R16). -/
theorem placeSlot_eq {s : State} {i : SlotId} (hn : ∀ e ∈ s.plist, e.slot ≠ i) (r : Slot) (due ref : Tick) :
    s.placeSlot i r due ref = { s with
      slots := s.slots.set i (placedRecord { r with due := due } (s.group r.desc.group).suspended ref)
      plist := placedList s s.plist i due (s.group r.desc.group).suspended } := by
  unfold State.placeSlot placedRecord placedList
  split
  · rfl
  · rw [setSlot_insertSlot hn]

/-- Arm-time initialisation (R16). -/
theorem initialised_eq (r : Slot) (due : Tick) : { r.initialised with due := due } = freshRun r due := by
  simp only [Slot.initialised, freshRun, Descriptor.counted]
  congr 1
  simp

/-- Arming afresh a slot that has no entry (R16). -/
theorem armSlot_eq {s : State} {i : SlotId} (hn : ∀ e ∈ s.plist, e.slot ≠ i) (due ref : Tick) :
    s.armSlot i due ref = { s with
      slots := s.slots.set i (placedRecord (freshRun (s.slot i) due) (flagOf s i) ref)
      plist := placedList s s.plist i due (flagOf s i) } := by
  rw [State.armSlot, placeSlot_eq hn, initialised_eq]
  rfl

/-- What disarming does to a slot in each of its states (R18). -/
theorem disarmSlot_pending {s : State} {i : SlotId} (h : (s.slot i).state = .pending) :
    s.disarmSlot i = { s with
      slots := s.slots.set i { s.slot i with state := .loaded }
      plist := s.plist.filter fun e => e.slot != i } := by
  simp only [State.disarmSlot, h]
  rfl

theorem disarmSlot_suspended {s : State} {i : SlotId} (h : (s.slot i).state = .suspended) :
    s.disarmSlot i = { s with slots := s.slots.set i { s.slot i with state := .loaded } } := by
  simp only [State.disarmSlot, h]
  rfl

theorem disarmSlot_other {s : State} {i : SlotId} (h : (s.slot i).state = .empty ∨ (s.slot i).state = .loaded) :
    s.disarmSlot i = s := by
  rcases h with h | h <;> simp only [State.disarmSlot, h]

/-! ### Walks (R74, R75, R80) -/

/-- A walk goes on to the next slot, or ends after slot 63. -/
theorem afterSlot_eq {i : SlotId} {visit : SlotId → Work} {last w : Work}
    (hw : if h : i.val + 1 < 64 then w = visit ⟨i.val + 1, h⟩ else w = last) : afterSlot i visit last = w := by
  unfold afterSlot nextSlot
  split at hw <;> rename_i h <;> simp [h, hw]

/-- SAFE goes on to the next line, or is finished after line 15. -/
theorem afterLine_eq {l : LineId} {w : Work}
    (hw : if h : l.val + 1 < 16 then w = .safeLines ⟨l.val + 1, h⟩ else w = .finished .ok) : afterLine l = w := by
  unfold afterLine nextLine
  split at hw <;> rename_i h <;> simp [h, hw]

/-! ### Loading T (R32, R64, R98, R101, R120) -/

/-- The slots after the shift (R32). -/
theorem shiftStored_slot (s : State) (d : Tick) (i : SlotId) :
    (s.shiftStored d).slot i = if s.listed i then { s.slot i with due := (s.slot i).due + d } else s.slot i := by
  simp [State.shiftStored, State.shiftDues]

/-- The lines after the shift (R64). -/
theorem shiftStored_line (s : State) (d : Tick) (l : LineId) :
    (s.shiftStored d).line l = (s.line l).shiftRelease d := by
  simp [State.shiftStored, State.shiftDues]

/-- What the shift reaches. -/
theorem shiftStored_eq (s : State) (d : Tick) :
    s.shiftStored d = { s with
      slots := (s.shiftStored d).slots, dispatcher := s.dispatcher.shift d
      lineUnit := { s.lineUnit with lines := (s.shiftStored d).lineUnit.lines } } := rfl

/-- The channels after the shift of their filters and trigger arms (R120). -/
theorem shiftFilters_channel (s : State) (d : Tick) (k : ChannelId) :
    (s.shiftFilters d).channel k = { s.channel k with
      filter := (s.channel k).filter.shift d, arm := (s.channel k).arm.map (TriggerArm.shift d) } := by
  simp [State.shiftFilters]

/-! ### Lines (R60, R72, R75) -/

/-- The safe level in the manual's two cases (R72). -/
theorem SafeLevel.level_eq (x : SafeLevel) : x.level = if x = .active then .active else .inactive := by
  cases x <;> rfl

/-- FLOAT alone is not driven (R72). -/
theorem SafeLevel.driven_eq (x : SafeLevel) : x.driven = decide (x ≠ .float) := by
  cases x <;> rfl

/-- The answer of an action on a line: preemption of another slot's pulse, otherwise done (R60). -/
theorem Line.answerTo_done {l : Line} {slot : SlotId}
    (h : l.pulse = none ∨ ∃ p, l.pulse = some p ∧ p.owner = slot) : l.answerTo slot = .done := by
  rcases h with h | ⟨p, h, ho⟩
  · simp [Line.answerTo, h]
  · simp [Line.answerTo, h, ho]

theorem Line.answerTo_preempted {l : Line} {slot : SlotId} {p : Pulse} (h : l.pulse = some p) (ho : p.owner ≠ slot) :
    l.answerTo slot = .preempted p.owner := by
  simp [Line.answerTo, h, ho]

/-- An action on a line that is not NORMAL is BLOCKED and changes nothing (R60). -/
theorem Line.act_blocked {l : Line} (h : l.mode ≠ .normal) (a : Action) (slot : SlotId) (w : BitVec 16) (t : Tick) :
    l.act a slot w t = ⟨l, .blocked, false⟩ := by
  unfold Line.act
  split <;> simp_all

end Sys2Proof.Machine
end

