-- ==== Sys2Proof/Laws/Blocks.lean ====
section
/-! SUPPORT. For the operations of one block what they do, said once: the guard tick, the capture FIFO, the stages of a
fire with what each leaves alone, trigger arms, plain reads of the window, and the stages of SOFT_RESET. -/

namespace Sys2Proof.Machine

/-! ### The guard tick (R68, R69) -/

/-- Placing a line among others keeps them all. -/
theorem insertByKey_perm (key : LineId → Nat) (l : LineId) (xs : List LineId) :
    (insertByKey key l xs).Perm (l :: xs) := by
  induction xs with
  | nil => exact List.Perm.refl _
  | cons x rest ih =>
    simp only [insertByKey]
    split
    · exact (ih.cons x).trans (List.Perm.swap _ _ _)
    · exact List.Perm.refl _

/-- The free order holds each line that it orders, once. -/
theorem orderByKey_perm (key : LineId → Nat) (xs : List LineId) : (orderByKey key xs).Perm xs := by
  induction xs with
  | nil => exact List.Perm.refl _
  | cons x rest ih => exact (insertByKey_perm key x _).trans (ih.cons x)

/-- A guard tick changes the lines and the counter of free values, and leaves its posts to come (R68, R69). -/
theorem takeGuardTick_eq (s : State) :
    s.takeGuardTick = { s with
      lineUnit := { s.lineUnit with
        lines := tabulate fun l => (s.line l).guardTick
        trips := (orderByKey (Config.tripOrderKey s.draws) s.trippingLines).map fun l => (l, s.now) }
      draws := s.draws + 1 } := rfl

/-- GUARD_TRIP posts in turn: those taken leave the trips still to come and reach the queue in their order (R69). -/
theorem postTrips_eq (n : Nat) (s : State) :
    s.postTrips n = { s with
      lineUnit := { s.lineUnit with trips := s.lineUnit.trips.drop n }
      queue := queueAfterAll s.now s.queue
        ((s.lineUnit.trips.take n).map fun x => ⟨x.2, .guardTrip x.1⟩) } := by
  induction n generalizing s with
  | zero => rfl
  | succ n ih =>
    unfold State.postTrips
    split
    · rename_i h
      have hl : { s.lineUnit with trips := [] } = s.lineUnit := by rw [← h]
      rw [h]
      simp only [List.drop_nil, List.take_nil, List.map_nil, queueAfterAll_nil, hl]
    · rename_i l stamp rest h
      rw [ih, State.postTrip, post_eq, h]
      rfl

/-! ### The capture FIFO (R123) -/

/-- A record offered to the FIFO: appended below 16, and the posts that come of it. -/
theorem offerRecord_eq (s : State) (r : CaptureRecord) :
    s.offerRecord r = { s with
      capture := { s.capture with
        fifo := if s.capture.fifo.length < 16 then s.capture.fifo ++ [r] else s.capture.fifo }
      queue := queueAfterAll s.now s.queue (offerPosts s r) } := by
  unfold State.offerRecord offerPosts
  split
  · rw [postIf_eq]
    by_cases hw : s.capture.fifo.length + 1 = s.capture.watermark
    · rw [if_pos hw, if_pos hw]
      rfl
    · rw [if_neg hw, if_neg hw]
      rfl
  · rw [post_eq]
    rfl

/-- The model's reading of the edge select is R122's. -/
theorem matches_iff (c : Channel) (level : Bool) :
    c.edge.matches (edgeTo level) = true ↔ Matches c level := by
  unfold Matches edgeTo
  cases c.edge <;> cases level <;> simp [EdgeSelect.matches]

/-! ### The stages of a fire (R40 to R49) -/

/-- A placement writes one slot and may add that slot's entry; other slots and their entries stay. -/
theorem placeSlot_frame (s : State) (i : SlotId) (r : Slot) (due ref : Tick) :
    ∃ slots list, s.placeSlot i r due ref = { s with slots := slots, plist := list }
      ∧ (∀ j, j ≠ i → slots[j] = s.slot j)
      ∧ slots[i] = placedRecord { r with due := due } (s.group r.desc.group).suspended ref
      ∧ ∀ j k, j ≠ i → (⟨j, k⟩ ∈ list ↔ ⟨j, k⟩ ∈ s.plist) := by
  unfold State.placeSlot
  split
  · rename_i h
    refine ⟨_, _, rfl, fun j hj => s.setSlot_slot_of_ne (Ne.symm hj) _, ?_, fun _ _ _ => Iff.rfl⟩
    refine (s.setSlot_slot_self _ _).trans ?_
    simp only [placedRecord, h, if_true]
    rfl
  · rename_i h
    refine ⟨_, _, rfl, fun j hj => s.setSlot_slot_of_ne (Ne.symm hj) _, ?_, fun j k hj => ?_⟩
    · refine (s.setSlot_slot_self _ _).trans ?_
      simp only [placedRecord, h]
      rfl
    · rw [mem_insertEntry]
      refine ⟨?_, Or.inr⟩
      rintro (h | h)
      · injection h with h
        exact absurd h hj
      · exact h

/-- Accounting and stage five reach the fired slot and its entry alone. -/
theorem accountAndPlace_frame (s : State) (c : FireCopy) :
    ∃ slots list, s.accountAndPlace c = { s with slots := slots, plist := list }
      ∧ (∀ j, j ≠ c.slot → slots[j] = s.slot j)
      ∧ ∀ j k, j ≠ c.slot → (⟨j, k⟩ ∈ list ↔ ⟨j, k⟩ ∈ s.plist) := by
  unfold State.accountAndPlace
  dsimp only
  split
  · exact ⟨_, _, rfl, fun j hj => s.setSlot_slot_of_ne (Ne.symm hj) _, fun _ _ _ => Iff.rfl⟩
  · obtain ⟨slots, list, h1, h2, -, h4⟩ := placeSlot_frame s c.slot _ _ c.fireTick
    exact ⟨slots, list, h1, h2, h4⟩

/-- The chain stage reaches the chain target and its entry alone. -/
theorem chain_frame (s : State) (c : FireCopy) (outcome : FireOutcome) :
    ∃ slots list, s.chain c outcome = { s with slots := slots, plist := list }
      ∧ (∀ j, c.desc.chain ≠ some j → slots[j] = s.slot j)
      ∧ ∀ j k, c.desc.chain ≠ some j → (⟨j, k⟩ ∈ list ↔ ⟨j, k⟩ ∈ s.plist) := by
  have same : ∃ slots list, s = { s with slots := slots, plist := list }
      ∧ (∀ j, c.desc.chain ≠ some j → slots[j] = s.slot j)
      ∧ ∀ j k, c.desc.chain ≠ some j → (⟨j, k⟩ ∈ list ↔ ⟨j, k⟩ ∈ s.plist) :=
    ⟨s.slots, s.plist, rfl, fun _ _ => rfl, fun _ _ _ => Iff.rfl⟩
  unfold State.chain
  cases ht : c.target outcome with
  | none => exact same
  | some i =>
    have hi : c.desc.chain = some i := by
      unfold FireCopy.target at ht
      split at ht <;> simp_all
    dsimp only
    cases (s.slot i).state with
    | loaded =>
      obtain ⟨slots, list, h1, h2, -, h4⟩ := placeSlot_frame s i (s.slot i).initialised c.chainDue c.fireTick
      exact ⟨slots, list, h1, fun j hj => h2 j fun h => hj (h ▸ hi), fun j k hj => h4 j k fun h => hj (h ▸ hi)⟩
    | empty => exact same
    | pending => exact same
    | suspended => exact same

/-! ### The stages as happenings (R38, R51, R53) -/

/-- One stage of a fire reaches the slots, the list, the lines, the queue's entries and the Dispatcher alone. -/
theorem fireStage_frame (s : State) (c : FireCopy) (stage : FireStage) :
    ∃ slots list lines entries d, s.fireStage c stage = { s with
      slots := slots, plist := list, dispatcher := d
      lineUnit := { s.lineUnit with lines := lines }, queue := { s.queue with entries := entries } } := by
  cases stage with
  | apply =>
    simp only [State.fireStage, State.applyStage]
    split
    · exact ⟨_, _, _, _, _, rfl⟩
    · split
      · exact ⟨_, _, _, _, _, rfl⟩
      · rw [postIf_eq, queueAfterAll_settings]
        exact ⟨_, _, _, _, _, rfl⟩
  | place a =>
    obtain ⟨slots, list, h, -⟩ := accountAndPlace_frame s c
    simp only [State.fireStage, h]
    exact ⟨_, _, _, _, _, rfl⟩
  | chain a last skips =>
    obtain ⟨slots, list, h, -⟩ := chain_frame s c a.outcome
    simp only [State.fireStage, h]
    exact ⟨_, _, _, _, _, rfl⟩
  | notify a last skips missed =>
    simp only [State.fireStage]
    rw [postIf_eq, queueAfterAll_settings]
    exact ⟨_, _, _, _, _, rfl⟩
  | miss j =>
    simp only [State.fireStage]
    rw [post_eq, queueAfter_settings]
    exact ⟨_, _, _, _, _, rfl⟩

/-- With no fire in progress no stage is taken. -/
theorem runFire_idle {s : State} (h : s.dispatcher = .idle) (n : Nat) : s.runFire n = s := by
  cases n with
  | zero => rfl
  | succ n => simp only [State.runFire, h]

/-- The first of the stages taken, and the others after it. -/
theorem runFire_succ {s : State} {c : FireCopy} {stage : FireStage} (h : s.dispatcher = .firing c stage) (n : Nat) :
    s.runFire (n + 1) = (s.fireStage c stage).runFire n := by
  simp only [State.runFire, h]

/-- The stages of a fire taken in two goes. -/
theorem runFire_add (m n : Nat) (s : State) : s.runFire (m + n) = (s.runFire m).runFire n := by
  induction m generalizing s with
  | zero => simp [State.runFire]
  | succ m ih =>
    cases h : s.dispatcher with
    | idle => rw [runFire_idle h, runFire_idle h, runFire_idle h]
    | firing c stage => rw [Nat.add_right_comm, runFire_succ h, runFire_succ h, ih]

/-- Stages of a fire reach the slots, the list, the lines, the queue's entries and the Dispatcher alone. -/
theorem runFire_frame (n : Nat) (s : State) :
    ∃ slots list lines entries d, s.runFire n = { s with
      slots := slots, plist := list, dispatcher := d
      lineUnit := { s.lineUnit with lines := lines }, queue := { s.queue with entries := entries } } := by
  induction n generalizing s with
  | zero => exact ⟨_, _, _, _, _, rfl⟩
  | succ n ih =>
    cases h : s.dispatcher with
    | idle =>
      rw [runFire_idle h]
      exact ⟨_, _, _, _, _, rfl⟩
    | firing c stage =>
      obtain ⟨a1, a2, a3, a4, a5, ha⟩ := fireStage_frame s c stage
      obtain ⟨b1, b2, b3, b4, b5, hb⟩ := ih (s.fireStage c stage)
      rw [runFire_succ h, hb, ha]
      exact ⟨_, _, _, _, _, rfl⟩

/-! What no stage of a fire reaches. -/

@[simp] theorem runFire_groups (n : Nat) (s : State) : (s.runFire n).groups = s.groups := by
  obtain ⟨_, _, _, _, _, h⟩ := runFire_frame n s; rw [h]
@[simp] theorem runFire_timebase (n : Nat) (s : State) : (s.runFire n).timebase = s.timebase := by
  obtain ⟨_, _, _, _, _, h⟩ := runFire_frame n s; rw [h]
@[simp] theorem runFire_clock (n : Nat) (s : State) : (s.runFire n).clock = s.clock := by
  obtain ⟨_, _, _, _, _, h⟩ := runFire_frame n s; rw [h]
@[simp] theorem runFire_capture (n : Nat) (s : State) : (s.runFire n).capture = s.capture := by
  obtain ⟨_, _, _, _, _, h⟩ := runFire_frame n s; rw [h]
@[simp] theorem runFire_cmd (n : Nat) (s : State) : (s.runFire n).cmd = s.cmd := by
  obtain ⟨_, _, _, _, _, h⟩ := runFire_frame n s; rw [h]
@[simp] theorem runFire_window (n : Nat) (s : State) : (s.runFire n).window = s.window := by
  obtain ⟨_, _, _, _, _, h⟩ := runFire_frame n s; rw [h]
@[simp] theorem runFire_port (n : Nat) (s : State) : (s.runFire n).port = s.port := by
  obtain ⟨_, _, _, _, _, h⟩ := runFire_frame n s; rw [h]
@[simp] theorem runFire_pins (n : Nat) (s : State) : (s.runFire n).pins = s.pins := by
  obtain ⟨_, _, _, _, _, h⟩ := runFire_frame n s; rw [h]
@[simp] theorem runFire_draws (n : Nat) (s : State) : (s.runFire n).draws = s.draws := by
  obtain ⟨_, _, _, _, _, h⟩ := runFire_frame n s; rw [h]
@[simp] theorem runFire_pauses (n : Nat) (s : State) : (s.runFire n).pauses = s.pauses := by
  obtain ⟨_, _, _, _, _, h⟩ := runFire_frame n s; rw [h]
@[simp] theorem runFire_pending (n : Nat) (s : State) : (s.runFire n).pending = s.pending := by
  obtain ⟨_, _, _, _, _, h⟩ := runFire_frame n s; rw [h]

/-- The stages still to come, those of this one among them. -/
def FireStage.toCome : FireStage → Nat
  | .apply => 5
  | .place _ => 4
  | .chain _ _ _ => 3
  | .notify _ _ _ _ => 2
  | .miss _ => 1

/-- A fire is at its end once it has been given the stages it has to come. -/
theorem runFire_ends {s : State} {c : FireCopy} {stage : FireStage} (h : s.dispatcher = .firing c stage) {n : Nat}
    (hn : stage.toCome ≤ n) : (s.runFire n).dispatcher = .idle := by
  induction n generalizing s stage with
  | zero => cases stage <;> simp [FireStage.toCome] at hn
  | succ n ih =>
    rw [runFire_succ h]
    cases stage with
    | apply => exact ih (stage := .place (s.applied c)) rfl (by simp only [FireStage.toCome] at *; omega)
    | place a => exact ih (stage := .chain a _ _) rfl (by simp only [FireStage.toCome] at *; omega)
    | chain a last skips =>
      exact ih (stage := .notify a last skips _) rfl (by simp only [FireStage.toCome] at *; omega)
    | notify a last skips missed =>
      cases missed with
      | none => exact congrArg State.dispatcher (runFire_idle rfl n)
      | some j => exact ih (stage := .miss j) rfl (by simp only [FireStage.toCome] at *; omega)
    | miss j => exact congrArg State.dispatcher (runFire_idle rfl n)

/-- A fire that has run to its end leaves the Dispatcher IDLE. -/
@[simp] theorem endFire_dispatcher (s : State) : s.endFire.dispatcher = .idle := by
  cases h : s.dispatcher with
  | idle => rw [State.endFire, runFire_idle h, h]
  | firing c stage => exact runFire_ends h (by cases stage <;> simp [FireStage.toCome])

/-- Any number of stages from five on is the whole fire. -/
theorem runFire_whole {n : Nat} (h : 5 ≤ n) (s : State) : s.runFire n = s.endFire := by
  obtain ⟨k, rfl⟩ := Nat.exists_eq_add_of_le h
  rw [runFire_add]
  exact runFire_idle (endFire_dispatcher s) k

/-- `s` with what no fire and no trigger arm reaches or looks at as it stands in `o`. -/
def State.beside (s o : State) : State :=
  { s with
    clock := o.clock, capture := o.capture, cmd := o.cmd, window := o.window, port := o.port, pins := o.pins
    draws := o.draws, pauses := o.pauses, pending := o.pending }

/-- A post does not look beside the queue. -/
theorem post_beside (s o : State) (stamp : Tick) (body : NotificationBody) :
    (s.beside o).post stamp body = (s.post stamp body).beside o := by
  rw [post_eq, post_eq]
  rfl

/-- A conditional post does not look beside the queue. -/
theorem postIf_beside (s o : State) (stamp : Tick) (body : Option NotificationBody) :
    (s.beside o).postIf stamp body = (s.postIf stamp body).beside o := by
  cases body with
  | none => rfl
  | some b => exact post_beside s o stamp b

/-- A placement looks at the slots, the list, the groups and T. -/
theorem placeSlot_beside (s o : State) (i : SlotId) (r : Slot) (due ref : Tick) :
    (s.beside o).placeSlot i r due ref = (s.placeSlot i r due ref).beside o := by
  unfold State.placeSlot
  by_cases h : (s.group r.desc.group).suspended = true
  · refine (if_pos h).trans ?_
    rw [if_pos h]
    rfl
  · refine (if_neg h).trans ?_
    rw [if_neg h]
    rfl

/-- A stage of a fire does not look at what it does not reach. -/
theorem fireStage_beside (s o : State) (c : FireCopy) (stage : FireStage) :
    (s.beside o).fireStage c stage = (s.fireStage c stage).beside o := by
  cases stage with
  | apply =>
    refine congrArg (State.withDispatcher · _) (?_ : (s.beside o).applyStage c = (s.applyStage c).beside o)
    unfold State.applyStage
    split
    · rfl
    · cases c.desc.actsOn with
      | none => rfl
      | some l => exact postIf_beside (s.setLine l (s.handOver c l).line) o _ _
  | place a =>
    refine congrArg (State.withDispatcher · _) (?_ : (s.beside o).accountAndPlace c = (s.accountAndPlace c).beside o)
    unfold State.accountAndPlace
    dsimp only
    by_cases h : c.completes ((s.slot c.slot).accounted c.desc).repeatsLeft = true
    · refine (if_pos h).trans ?_
      rw [if_pos h]
      rfl
    · refine (if_neg h).trans ?_
      rw [if_neg h]
      exact placeSlot_beside _ _ _ _ _ _
  | chain a last skips =>
    refine congrArg (State.withDispatcher · _) (?_ : (s.beside o).chain c a.outcome = (s.chain c a.outcome).beside o)
    unfold State.chain
    cases c.target a.outcome with
    | none => rfl
    | some i =>
      have h0 : (s.beside o).slot i = s.slot i := rfl
      dsimp only
      rw [h0]
      cases (s.slot i).state with
      | loaded => exact placeSlot_beside _ _ _ _ _ _
      | empty => rfl
      | pending => rfl
      | suspended => rfl
  | notify a last skips missed => exact congrArg (State.withDispatcher · _) (postIf_beside s o _ _)
  | miss j => exact congrArg (State.withDispatcher · _) (post_beside s o _ _)

/-- A fire does not look at what it does not reach. -/
theorem runFire_beside (n : Nat) (s o : State) : (s.beside o).runFire n = (s.runFire n).beside o := by
  induction n generalizing s with
  | zero => rfl
  | succ n ih =>
    cases h : s.dispatcher with
    | idle => rw [runFire_idle h, runFire_idle (s := s.beside o) h]
    | firing c stage => rw [runFire_succ h, runFire_succ (s := s.beside o) h, fireStage_beside, ih]

/-- What a fire does not reach is after it as before. -/
theorem runFire_beside_self (n : Nat) (s : State) : (s.runFire n).beside s = s.runFire n := by
  obtain ⟨_, _, _, _, _, h⟩ := runFire_frame n s
  rw [h]
  rfl

/-- A claim on a slot that no fire has claimed waits for nothing (R9). -/
theorem claim_not_fired {s : State} {i : SlotId} (h : NotFired s i) : s.claim i = s := if_neg h

/-- A claim on the slot being fired waits for the fire to end (R9, R38). -/
theorem claim_fired {s : State} {i : SlotId} (h : s.firedSlot = some i) : s.claim i = s.endFire := if_pos h

/-- A fire does not look at the pauses. -/
theorem runFire_withPauses (n : Nat) (s : State) (p : List Nat) : (s.withPauses p).runFire n = (s.runFire n).withPauses p := by
  refine (runFire_beside n s (s.withPauses p)).trans ?_
  rw [← runFire_beside_self n s]
  rfl

/-- The end of a fire does not look at the pauses. -/
theorem endFire_withPauses (s : State) (p : List Nat) : (s.withPauses p).endFire = s.endFire.withPauses p :=
  runFire_withPauses 5 s p

/-- A claim does not look at what it does not reach. -/
theorem claim_beside (s o : State) (i : SlotId) : (s.beside o).claim i = (s.claim i).beside o := by
  by_cases h : s.firedSlot = some i
  · rw [claim_fired h, claim_fired (s := s.beside o) h]
    exact runFire_beside 5 s o
  · rw [claim_not_fired h, claim_not_fired (s := s.beside o) h]

/-- A trigger arm does not look at what it does not reach. -/
theorem triggerArm_beside (s o : State) (k : ChannelId) (a : TriggerArm) :
    (s.beside o).triggerArm k a = (s.triggerArm k a).beside o := by
  unfold State.triggerArm
  dsimp only
  rw [claim_beside]
  generalize s.claim a.slot = v
  have h : (v.beside o).slot a.slot = v.slot a.slot := rfl
  rw [h]
  cases (v.slot a.slot).state with
  | loaded => exact placeSlot_beside _ _ _ _ _ _
  | empty => exact post_beside _ _ _ _
  | pending => exact post_beside _ _ _ _
  | suspended => exact post_beside _ _ _ _

/-- The taking of a command and the end of a fire do not meet (R141). -/
theorem endFire_taken (s : State) (code : Byte) : (s.taken code).endFire = s.endFire.taken code := by
  refine (runFire_beside 5 s (s.taken code)).trans ?_
  obtain ⟨_, _, _, _, _, h⟩ := runFire_frame 5 s
  rw [State.endFire, h]
  rfl

/-- With no fire in progress a claim waits for nothing (R9). -/
theorem claim_idle {s : State} (h : s.dispatcher = .idle) (i : SlotId) : s.claim i = s :=
  if_neg (by simp [State.firedSlot, h])

/-- The row FIRE with a fire in progress (R38). -/
theorem execFire_firing {s : State} {c : FireCopy} {stage : FireStage} (h : s.dispatcher = .firing c stage) :
    exec .fire s = .next (s.runFire (s.further + 1)).pauseTaken := by
  rw [runFire_succ h]
  simp only [exec, execFire, h]

/-- What is left of a fire in progress, by the row FIRE (R38). -/
theorem fireEnded_iff (s u : State) : FireEnded s u ↔ s.dispatcher ≠ .idle ∧ u = s.endFire := by
  refine and_congr_right fun hi => ?_
  obtain ⟨c, stage, hd⟩ : ∃ c stage, s.dispatcher = .firing c stage := by
    cases h : s.dispatcher with
    | idle => exact absurd h hi
    | firing c stage => exact ⟨c, stage, rfl⟩
  have he : exec .fire { s with pauses := [] } = .next (s.endFire.withPauses []) := by
    rw [execFire_firing (s := { s with pauses := [] }) hd, runFire_whole (by simp [State.further])]
    exact congrArg (fun u => Host.Outcome.next (State.pauseTaken u)) (endFire_withPauses s [])
  have hp : { s.endFire.withPauses [] with pauses := s.pauses } = s.endFire := by
    have : s.endFire.pauses = s.pauses := runFire_pauses 5 s
    rw [← this]
    rfl
  constructor
  · rintro ⟨v, hv, rfl⟩
    rw [he] at hv
    injection hv with hv
    rw [← hv, hp]
  · rintro rfl
    exact ⟨_, he, hp.symm⟩

/-! ### Trigger arms still to come (R122, R124) -/

/-- A trigger arm of a slot that no fire has claimed (R124). -/
theorem triggerArm_eq {s : State} (hm : ListMatchesSlots s) (k : ChannelId) {a : TriggerArm} (hf : NotFired s a.slot) :
    s.triggerArm k a =
      if (s.slot a.slot).state = .loaded then { s with
        slots := s.slots.set a.slot (placedRecord (freshRun (s.slot a.slot) a.due) (flagOf s a.slot) s.now)
        plist := placedList s s.plist a.slot a.due (flagOf s a.slot) }
      else { s with queue := queueAfter s.now s.queue ⟨s.now, .triggerMiss a.slot k⟩ } := by
  unfold State.triggerArm
  simp only [claim_not_fired hf]
  cases h : (s.slot a.slot).state with
  | loaded => exact armSlot_eq (not_listed hm (by simp [h])) _ _
  | empty => exact post_eq _ _ _
  | pending => exact post_eq _ _ _
  | suspended => exact post_eq _ _ _

/-- A channel without a trigger arm to come has nothing to ask for. -/
theorem takeArm_none {s : State} {k : ChannelId} (h : (s.channel k).arm = none) : s.takeArm k = s := by
  simp only [State.takeArm, h]

/-- With no trigger arm to come on any channel nothing is asked for. -/
theorem takeArms_none {s : State} (h : ∀ k : ChannelId, (s.channel k).arm = none) : s.takeArms = s := by
  have : ∀ ks : List ChannelId, ks.foldl State.takeArm s = s := by
    intro ks
    induction ks with
    | nil => rfl
    | cons k rest ih => rw [List.foldl_cons, takeArm_none (h k), ih]
  exact this _

/-- A claim reaches the slots, the list, the Dispatcher, the lines and the queue's entries only (R9, R38). -/
theorem claim_frame (s : State) (i : SlotId) :
    ∃ slots list lines entries d, s.claim i = { s with
      slots := slots, plist := list, dispatcher := d
      lineUnit := { s.lineUnit with lines := lines }, queue := { s.queue with entries := entries } } := by
  unfold State.claim
  split
  · exact runFire_frame 5 s
  · exact ⟨_, _, _, _, _, rfl⟩

/-- A trigger arm, in any state, reaches what a claim reaches. -/
theorem triggerArm_frame (s : State) (k : ChannelId) (a : TriggerArm) :
    ∃ slots list lines entries d, s.triggerArm k a = { s with
      slots := slots, plist := list, dispatcher := d
      lineUnit := { s.lineUnit with lines := lines }, queue := { s.queue with entries := entries } } := by
  obtain ⟨a1, a2, a3, a4, a5, h⟩ := claim_frame s a.slot
  unfold State.triggerArm
  simp only [h]
  split
  · obtain ⟨b1, b2, hb, -⟩ := placeSlot_frame
      { s with
        slots := a1, plist := a2, dispatcher := a5
        lineUnit := { s.lineUnit with lines := a3 }, queue := { s.queue with entries := a4 } }
      a.slot (a1[a.slot]).initialised a.due s.now
    exact ⟨b1, b2, a3, a4, a5, hb⟩
  all_goals
    rw [post_eq, queueAfter_settings]
    exact ⟨_, _, _, _, _, rfl⟩

/-- The channels after a trigger arm of channel `k` has been asked for. -/
theorem takeArm_channel (s : State) (k j : ChannelId) :
    (s.takeArm k).channel j = if j = k then { s.channel j with arm := none } else s.channel j := by
  unfold State.takeArm
  cases h : (s.channel k).arm with
  | none =>
    by_cases hj : j = k
    · subst hj; rw [if_pos rfl]; simp only [← h]
    · rw [if_neg hj]
  | some a =>
    obtain ⟨_, _, _, _, _, hf⟩ := triggerArm_frame (s.setChannel k { s.channel k with arm := none }) k a
    have hf := congrArg (fun s => State.channel s j) hf
    dsimp only at hf ⊢
    rw [hf]
    show (s.setChannel k { s.channel k with arm := none }).channel j = _
    split
    · rename_i hj; subst hj; exact s.setChannel_channel_self _ _
    · rename_i hj; exact s.setChannel_channel_of_ne (fun h => hj h.symm) _

/-- What a trigger arm of a channel reaches, where one is to come. -/
theorem takeArm_frame (s : State) (k : ChannelId) :
    ∃ slots list lines entries d cs, s.takeArm k = { s with
      slots := slots, plist := list, dispatcher := d, capture := { s.capture with channels := cs }
      lineUnit := { s.lineUnit with lines := lines }, queue := { s.queue with entries := entries } } := by
  unfold State.takeArm
  split
  · exact ⟨_, _, _, _, _, _, rfl⟩
  · rename_i a _
    obtain ⟨a1, a2, a3, a4, a5, hf⟩ := triggerArm_frame (s.setChannel k { s.channel k with arm := none }) k a
    exact ⟨a1, a2, a3, a4, a5, _, hf⟩

/-- The taking of a command and a trigger arm do not meet. -/
theorem takeArm_taken (s : State) (k : ChannelId) (code : Byte) :
    (s.taken code).takeArm k = (s.takeArm k).taken code := by
  unfold State.takeArm
  simp only [State.taken_channel]
  cases h : (s.channel k).arm with
  | none => rfl
  | some a =>
    dsimp only
    show ((s.setChannel k { s.channel k with arm := none }).taken code).triggerArm k a = _
    generalize s.setChannel k { s.channel k with arm := none } = v
    refine (triggerArm_beside v (v.taken code) k a).trans ?_
    obtain ⟨_, _, _, _, _, h⟩ := triggerArm_frame v k a
    rw [h]
    rfl

/-- The row ACCEPTANCE makes a trigger arm still to come. -/
theorem acceptance_arm {s : State} {k : ChannelId} (h : (s.channel k).arm ≠ none) :
    exec (.acceptance k) s = .next (s.takeArm k) := by
  show Host.Outcome.next _ = _
  rw [if_pos (Option.isSome_iff_ne_none.2 h)]

/-- The lowest channel with a trigger arm to come makes its arm first. -/
theorem takeArms_first {s : State} {k : ChannelId} (hj : ∀ j : ChannelId, j < k → (s.channel j).arm = none) :
    s.takeArms = (s.takeArm k).takeArms := by
  have hn : ∀ j : ChannelId, j ≤ k → (s.takeArm k).takeArm j = s.takeArm k := by
    intro j hle
    refine takeArm_none ?_
    rw [takeArm_channel]
    split
    · rfl
    · rename_i hne; exact hj j (lt_of_le_of_ne hle hne)
  have h4 : List.finRange 4 = [0, 1, 2, 3] := by decide
  simp only [State.takeArms, h4, List.foldl]
  have hk : k = 0 ∨ k = 1 ∨ k = 2 ∨ k = 3 := by clear hj hn; revert k; decide
  rcases hk with rfl | rfl | rfl | rfl
  · rw [hn 0 (by decide)]
  · rw [takeArm_none (hj 0 (by decide)), hn 0 (by decide), hn 1 (by decide)]
  · rw [takeArm_none (hj 0 (by decide)), takeArm_none (hj 1 (by decide)), hn 0 (by decide), hn 1 (by decide),
      hn 2 (by decide)]
  · rw [takeArm_none (hj 0 (by decide)), takeArm_none (hj 1 (by decide)), takeArm_none (hj 2 (by decide)),
      hn 0 (by decide), hn 1 (by decide), hn 2 (by decide), hn 3 (by decide)]

/-- A change of every channel changes the channels alone. -/
theorem mapChannels_frame (s : State) (f : ChannelId → Channel → Channel) :
    s.mapChannels f = { s with capture := { s.capture with channels := (s.mapChannels f).capture.channels } } := rfl

/-! ### Reads of the window (R153, R156) -/

/-- A byte of a word as its eight bits. -/
theorem byteOf_eq {w : Nat} (x : BitVec w) (k : Nat) : byteOf x k = x.extractLsb' (8 * k) 8 := by
  ext i hi
  simp [byteOf]

/-- The read of a byte that neither latches, pops nor is STATUS shows it and changes nothing but the port. -/
theorem latchRead_plain {s : State} {a : Nat} (hf : s.port.frame = .read) (hp : s.port.pointer.toNat = a)
    (ha : a ∉ [0x02, 0x44, 0x4E, 0x54, 0x59, 0x68, 0x6D, 0x79]) :
    exec .latchRead s = .next { s with port := { portPast s with sdo := some (s.byteAt a) } } := by
  simp only [List.mem_cons, List.not_mem_nil, or_false, not_or] at ha
  obtain ⟨h1, h2, h3, h4, h5, h6, h7, h8⟩ := ha
  have hl : s.latchAt a = s := by simp [State.latchAt, h2, h3, h4, h5, h6, h7, h8]
  simp only [exec, execLatchRead, if_pos hf, State.readByte, hp, hl, if_neg h1]
  rfl

/-! ### SOFT_RESET's stages (R150) -/

/-- Stages of SOFT_RESET taken in two goes. -/
theorem runReset_add (m n : Nat) (s : State) : s.runReset (m + n) = (s.runReset m).runReset n := by
  induction m generalizing s with
  | zero => simp [State.runReset]
  | succ m ih =>
    rw [Nat.add_right_comm]
    cases h : s.cmd.inHand with
    | none => cases n <;> simp [State.runReset, h]
    | some w => cases w <;> first | (cases n <;> simp [State.runReset, h]; done) | simp only [State.runReset, h, ih]

/-- One stage of SOFT_RESET, and the others after it. -/
theorem runReset_succ {s : State} {stage : ResetStage} (h : s.cmd.inHand = some (.softReset stage)) (n : Nat) :
    s.runReset (n + 1) = (s.resetStage stage).runReset n := by
  simp only [State.runReset, h]

/-- The third stage of SOFT_RESET: the FIFO empty, every filter STABLE at its input's level (R128). -/
theorem resetStage_capture (s : State) : s.resetStage .capture = { s with
    capture := { s.capture with
      channels := tabulate fun k => { s.channel k with filter := .stable (s.inputLevel k) }, fifo := [] }
    cmd := { s.cmd with inHand := some (.softReset .slots) } } := rfl

/-- The fourth stage: every slot EMPTY and the list with them (R26, R36). -/
theorem resetStage_slots (s : State) : s.resetStage .slots = { s with
    slots := Vector.replicate 64 Slot.cleared, plist := []
    cmd := { s.cmd with inHand := some (.softReset .groups) } } := rfl

/-- The fifth stage: every group record at its reset value (R90). -/
theorem resetStage_groups (s : State) : s.resetStage .groups = { s with
    groups := Vector.replicate 8 Group.atReset, cmd := { s.cmd with inHand := some (.softReset .lines) } } := rfl

/-- The sixth stage: every line responds by its mode (R78). -/
theorem resetStage_lines (s : State) : s.resetStage .lines = { s with
    lineUnit := { s.lineUnit with lines := tabulate fun l => (s.line l).softReset }
    cmd := { s.cmd with inHand := some (.softReset .clock) } } := rfl

/-- The seventh stage: a pending switch is abandoned (R115). -/
theorem resetStage_clock (s : State) : s.resetStage .clock = { s with
    clock := s.clock.abandonSwitch, cmd := { s.cmd with inHand := some (.softReset .time) } } := rfl

/-- The eighth stage: T and E become 0 (R106). -/
theorem resetStage_time (s : State) : s.resetStage .time = { s with
    timebase := { s.timebase with t := 0, e := 0 }, cmd := { s.cmd with inHand := some (.softReset .queue) } } := rfl

/-- The ninth stage: the queue is emptied (R139). -/
theorem resetStage_queue (s : State) : s.resetStage .queue = { s with
    queue := { s.queue with entries := [] }, cmd := { s.cmd with inHand := some (.softReset .completion) } } := rfl

/-- The third to the ninth stage of SOFT_RESET together (R150). -/
theorem runReset_capture {s : State} (h : s.cmd.inHand = some (.softReset .capture)) : s.runReset 7 = { s with
    slots := Vector.replicate 64 Slot.cleared, plist := [], groups := Vector.replicate 8 Group.atReset
    lineUnit := { s.lineUnit with lines := tabulate fun l => (s.line l).softReset }
    timebase := { s.timebase with t := 0, e := 0 }, clock := s.clock.abandonSwitch
    capture := { s.capture with
      channels := tabulate fun k => { s.channel k with filter := .stable (s.inputLevel k) }, fifo := [] }
    queue := { s.queue with entries := [] }
    cmd := { s.cmd with inHand := some (.softReset .completion) } } := by
  rw [runReset_succ h, resetStage_capture, runReset_succ (stage := .slots) rfl, resetStage_slots,
    runReset_succ (stage := .groups) rfl, resetStage_groups, runReset_succ (stage := .lines) rfl, resetStage_lines,
    runReset_succ (stage := .clock) rfl, resetStage_clock, runReset_succ (stage := .time) rfl, resetStage_time,
    runReset_succ (stage := .queue) rfl, resetStage_queue]
  rfl

end Sys2Proof.Machine
end

