-- ==== Sys2Proof/Laws/PerInstr.lean ====
section
/-! SUPPORT. What holds of every row, constructor by constructor: the codes that the rows carry (R141, R146). -/

namespace Sys2Proof.Laws

/-- A row that writes CMD with a code of its own writes one of the twenty codes of R146, and is well formed; so is
every row without one but an UNKNOWN_COMMAND whose code names a command (R141). -/
def CommandCode.Statement (i : Instr) : Prop :=
  (∀ c, i.code = some c → namesCommand c = true)
    ∧ ((∀ c, i = .unknownCommand c → namesCommand c = false) → i.wellFormed = true)

/-- The row of a code that the summary of R146 lists. -/
theorem commandCode_of_code {i : Instr} {c : Byte} (hc : i.code = some c) (hn : namesCommand c = true)
    (hw : i.wellFormed = true) : CommandCode.Statement i :=
  ⟨fun d hd => by rw [hc] at hd; injection hd with hd; rw [← hd]; exact hn, fun _ => hw⟩

/-- A row without a code of its own. -/
theorem commandCode_of_none {i : Instr} (hc : i.code = none) (hw : i.wellFormed = true) : CommandCode.Statement i :=
  ⟨fun c h => by rw [hc] at h; exact absurd h (by simp), fun _ => hw⟩

theorem CommandCode.load : CommandCode.Statement .load :=
  commandCode_of_code rfl (by decide) rfl
theorem CommandCode.arm : CommandCode.Statement .arm :=
  commandCode_of_code rfl (by decide) rfl
theorem CommandCode.disarm : CommandCode.Statement .disarm :=
  commandCode_of_code rfl (by decide) rfl
theorem CommandCode.release : CommandCode.Statement .release :=
  commandCode_of_code rfl (by decide) rfl
theorem CommandCode.retime : CommandCode.Statement .retime :=
  commandCode_of_code rfl (by decide) rfl
theorem CommandCode.query : CommandCode.Statement .query :=
  commandCode_of_code rfl (by decide) rfl
theorem CommandCode.suspendGroup : CommandCode.Statement .suspendGroup :=
  commandCode_of_code rfl (by decide) rfl
theorem CommandCode.suspendGroupVisit : CommandCode.Statement .suspendGroupVisit :=
  commandCode_of_none rfl rfl
theorem CommandCode.resumeGroup : CommandCode.Statement .resumeGroup :=
  commandCode_of_code rfl (by decide) rfl
theorem CommandCode.resumeGroupVisit : CommandCode.Statement .resumeGroupVisit :=
  commandCode_of_none rfl rfl
theorem CommandCode.disarmGroup : CommandCode.Statement .disarmGroup :=
  commandCode_of_code rfl (by decide) rfl
theorem CommandCode.disarmGroupVisit : CommandCode.Statement .disarmGroupVisit :=
  commandCode_of_none rfl rfl
theorem CommandCode.start : CommandCode.Statement .start :=
  commandCode_of_code rfl (by decide) rfl
theorem CommandCode.stop : CommandCode.Statement .stop :=
  commandCode_of_code rfl (by decide) rfl
theorem CommandCode.settime : CommandCode.Statement .settime :=
  commandCode_of_code rfl (by decide) rfl
theorem CommandCode.resortComplete : CommandCode.Statement .resortComplete :=
  commandCode_of_none rfl rfl
theorem CommandCode.switchClock : CommandCode.Statement .switchClock :=
  commandCode_of_code rfl (by decide) rfl
theorem CommandCode.loadPattern : CommandCode.Statement .loadPattern :=
  commandCode_of_code rfl (by decide) rfl
theorem CommandCode.clearPattern : CommandCode.Statement .clearPattern :=
  commandCode_of_code rfl (by decide) rfl
theorem CommandCode.clearTrip : CommandCode.Statement .clearTrip :=
  commandCode_of_code rfl (by decide) rfl
theorem CommandCode.lockLines : CommandCode.Statement .lockLines :=
  commandCode_of_code rfl (by decide) rfl
theorem CommandCode.safe : CommandCode.Statement .safe :=
  commandCode_of_code rfl (by decide) rfl
theorem CommandCode.safeSlotVisit : CommandCode.Statement .safeSlotVisit :=
  commandCode_of_none rfl rfl
theorem CommandCode.safeLineVisit : CommandCode.Statement .safeLineVisit :=
  commandCode_of_none rfl rfl
theorem CommandCode.flushCapture : CommandCode.Statement .flushCapture :=
  commandCode_of_code rfl (by decide) rfl
theorem CommandCode.softReset : CommandCode.Statement .softReset :=
  commandCode_of_code rfl (by decide) rfl
theorem CommandCode.unknownCommand (code : Byte) : CommandCode.Statement (.unknownCommand code) := by
  refine ⟨fun c h => ?_, fun h => ?_⟩
  · simp [Instr.code] at h
  · simp [Instr.wellFormed, h code rfl]
theorem CommandCode.collide (code : Byte) : CommandCode.Statement (.collide code) :=
  commandCode_of_none rfl rfl
theorem CommandCode.commandCompletion : CommandCode.Statement .commandCompletion :=
  commandCode_of_none rfl rfl
theorem CommandCode.fire : CommandCode.Statement .fire :=
  commandCode_of_none rfl rfl
theorem CommandCode.releaseOfAPulse (line : LineId) : CommandCode.Statement (.releaseOfAPulse line) :=
  commandCode_of_none rfl rfl
theorem CommandCode.guardTick : CommandCode.Statement .guardTick :=
  commandCode_of_none rfl rfl
theorem CommandCode.holdnAssertion : CommandCode.Statement .holdnAssertion :=
  commandCode_of_none rfl rfl
theorem CommandCode.holdnRelease : CommandCode.Statement .holdnRelease :=
  commandCode_of_none rfl rfl
theorem CommandCode.lineConfigurationCommit (value : Byte) : CommandCode.Statement (.lineConfigurationCommit value) :=
  commandCode_of_none rfl rfl
theorem CommandCode.tick : CommandCode.Statement .tick :=
  commandCode_of_none rfl rfl
theorem CommandCode.syncEdge : CommandCode.Statement .syncEdge :=
  commandCode_of_none rfl rfl
theorem CommandCode.refclkEdge : CommandCode.Statement .refclkEdge :=
  commandCode_of_none rfl rfl
theorem CommandCode.gapTooLong : CommandCode.Statement .gapTooLong :=
  commandCode_of_none rfl rfl
theorem CommandCode.switchTimeout : CommandCode.Statement .switchTimeout :=
  commandCode_of_none rfl rfl
theorem CommandCode.captureInputChange (channel : ChannelId) : CommandCode.Statement (.captureInputChange channel) :=
  commandCode_of_none rfl rfl
theorem CommandCode.acceptance (channel : ChannelId) : CommandCode.Statement (.acceptance channel) :=
  commandCode_of_none rfl rfl
theorem CommandCode.channelConfigurationCommit (value : Byte) : CommandCode.Statement (.channelConfigurationCommit value) :=
  commandCode_of_none rfl rfl
theorem CommandCode.capturePop : CommandCode.Statement .capturePop :=
  commandCode_of_none rfl rfl
theorem CommandCode.notificationPop : CommandCode.Statement .notificationPop :=
  commandCode_of_none rfl rfl
theorem CommandCode.statusRead : CommandCode.Statement .statusRead :=
  commandCode_of_none rfl rfl
theorem CommandCode.latchRead : CommandCode.Statement .latchRead :=
  commandCode_of_none rfl rfl
theorem CommandCode.irqEnableWrite (value : Byte) : CommandCode.Statement (.irqEnableWrite value) :=
  commandCode_of_none rfl rfl
theorem CommandCode.registerWrite (value : Byte) : CommandCode.Statement (.registerWrite value) :=
  commandCode_of_none rfl rfl
theorem CommandCode.frameStart : CommandCode.Statement .frameStart :=
  commandCode_of_none rfl rfl
theorem CommandCode.addressByte (value : Byte) : CommandCode.Statement (.addressByte value) :=
  commandCode_of_none rfl rfl
theorem CommandCode.frameEnd : CommandCode.Statement .frameEnd :=
  commandCode_of_none rfl rfl
theorem CommandCode.fullReset : CommandCode.Statement .fullReset :=
  commandCode_of_none rfl rfl
theorem CommandCode.endOfFullReset : CommandCode.Statement .endOfFullReset :=
  commandCode_of_none rfl rfl

end Sys2Proof.Laws
end

