-- ==== Sys2Proof/Tests/Slice0.lean ====
section
/-! SUPPORT. The model's own tests. Expected values come from the manual's worked examples (1.11, 1.12, 2.10, 2.11, 3.11,
4.9, 5.10, 5.11, 6.7, 7.8, 8.7, 9.8) or from a rule by hand. -/

namespace Sys2Proof.Tests

open Sys2Proof Sys2Proof.Machine

/-! ### Small states -/

/-- The state after a row; every row answers a next state. -/
def after (c : Instr) (s : State) : State :=
  match exec c s with
  | .next t => t
  | .fault _ => s
  | .refused _ => s

/-- A write frame whose pointer is at `a`. -/
def writing (a : Addr) (s : State) : State :=
  { s with port := ⟨.write, a, none, false⟩, pins := { s.pins with csnLow := true } }

/-- A read frame whose pointer is at `a`. -/
def reading (a : Addr) (s : State) : State :=
  { s with port := ⟨.read, a, none, false⟩, pins := { s.pins with csnLow := true } }

/-- The state in which a write of CMD takes a command with these ARG bytes. -/
def commanding (args : Vector Byte 8) (s : State) : State :=
  writing cmdAddr { s with cmd := { s.cmd with args := args } }

/-- A command in hand. -/
def working (w : Work) (s : State) : State := { s with cmd := { s.cmd with inHand := some w, code := 0x10 } }

/-- The Timebase RUNNING at T = `t`. -/
def running (t : Tick) (s : State) : State :=
  { s with timebase := { s.timebase with t := t, running := true, phase := some 0 } }

/-- The Timebase STOPPED at T = `t`. -/
def stopped (t : Tick) (s : State) : State :=
  { s with timebase := { s.timebase with t := t, running := false, phase := none } }

/-- The valve descriptor of 1.11: PULSE on L5, 250 ticks, ten times, every 4,000. -/
def valve : Descriptor where
  action := .pulse
  line := some 5
  time := 20000
  period := 4000
  repeats := 10
  width := 250
  group := 1
  late := .fire
  tolerance := 0
  notify := .last
  chain := none
  chainOffset := 0
  autoRelease := false

/-- A slot LOADED with a descriptor. -/
def loadedSlot (d : Descriptor) : Slot := { Slot.cleared with desc := d, state := .loaded }

/-- An armed slot. -/
def armedSlot (d : Descriptor) (state : SlotState) (due remaining : Tick) (left : BitVec 16) : Slot :=
  { Slot.cleared with desc := d, state := state, due := due, remaining := remaining, repeatsLeft := left }

/-- `s` with the record of a slot. -/
def withSlot (i : SlotId) (r : Slot) (s : State) : State := s.setSlot i r

/-- `s` with a PENDING slot at the tail of the list. -/
def withPending (i : SlotId) (d : Descriptor) (due : Tick) (left : BitVec 16) (s : State) : State :=
  { s.setSlot i (armedSlot d .pending due 0 left) with plist := s.plist ++ [⟨i, false⟩] }

/-- A NORMAL line, driven at a level, ACTIVE_HIGH, safe level INACTIVE, with a guard limit. -/
def normalLine (level : Level) (guardLimit : BitVec 16) : Line :=
  { Line.atReset with
    config := ⟨true, .activeHigh, .pushPull, .inactive, guardLimit⟩, mode := .normal, level := level, driven := true }

/-- `s` with the record of a line. -/
def withLine (l : LineId) (r : Line) (s : State) : State := s.setLine l r

/-- `s` with the record of a channel, its input high or low. -/
def withChannel (k : ChannelId) (c : Channel) (level : Bool) (s : State) : State :=
  { s.setChannel k c with pins := { s.pins with k := s.pins.k.set k level } }

/-- `s` with entries in the Notification Queue. -/
def withEntries (q : List Notification) (s : State) : State := { s with queue := { s.queue with entries := q } }

/-- The world lets others in after `n` further stages of the next happening that has several (log 24). -/
def paused (n : Nat) (s : State) : State := { s with pauses := [n] }

/-- A group with its flag raised. -/
def suspendedGroup (g : GroupId) (s : State) : State := s.setGroup g ⟨true, 200000⟩

/-- Slot 3 of 2.11: PULSE on L2, period 1,000, 3 repeats, chained to slot 7. -/
def slot3 : Descriptor :=
  { Descriptor.zero with
    action := .pulse, line := some 2, time := 11000, period := 1000, repeats := 3, width := 200, notify := .each
    chain := some 7, chainOffset := 50 }

/-- The fire of 2.11's slot 3: due exactly at T. -/
def fire3 : State := running 11000 (withPending 3 slot3 11000 3 (withLine 2 (normalLine .inactive 0) State.reset))

/-- That fire after its taking and `n` further stages: 0 apply, 1 place, 2 chain, 3 FIRE, 4 CHAIN_MISS are to come. -/
def firing (n : Nat) : State := after .fire (paused n fire3)

/-- The copy that fire holds. -/
def copy3 : FireCopy := ⟨3, slot3, 11000, 11000, 11000, 0⟩

/-! ### Well-formedness and words -/

/-- R141, R146: 0x01 names LOAD, so UNKNOWN_COMMAND does not carry it. -/
theorem test_wellFormed_refuses_unknownCommand_with_a_named_code :
    (Instr.unknownCommand 0x01).wellFormed = false ∧ (Instr.unknownCommand 0x3F).wellFormed = false := by decide

/-- R146: 0x07 and 0xFF name no command. -/
theorem test_wellFormed_accepts_unknownCommand :
    (Instr.unknownCommand 0x07).wellFormed = true ∧ (Instr.unknownCommand 0xFF).wellFormed = true
      ∧ Instr.load.wellFormed = true := by decide

/-- No row of the table has bits. -/
theorem test_no_word_spells_a_command : decodeTableWord 8 1 = none ∧ State.reset.withFetchWord 8 1 = State.reset :=
  ⟨rfl, rfl⟩

/-! ### Slot commands -/

/-- 1.11, first LOAD: the width 4,000 is not below the period, so RANGE; slot 12 stays EMPTY. -/
theorem test_load_refuses_a_pulse_as_wide_as_its_period :
    let s := after .load (commanding #v[12, 0, 0, 0, 0, 0, 0, 0] { State.reset with
      cmd := { State.reset.cmd with staging := { stagingOf valve with width := 4000 } } })
    s.slot 12 = Slot.cleared ∧ s.cmd.inHand = some (.finished .range) := by decide

/-- 1.11, second LOAD: slot 12 becomes LOADED with the descriptor, its run fields zero. -/
theorem test_load_writes_the_descriptor :
    let s := after .load (commanding #v[12, 0, 0, 0, 0, 0, 0, 0] { State.reset with
      cmd := { State.reset.cmd with staging := stagingOf valve } })
    s.slot 12 = loadedSlot valve ∧ s.cmd.inHand = some (.finished .ok) ∧ s.cmd.done = false := by decide

/-- 1.11, ARM REL at T = 1,000,000: due 1,020,000, repeats left 10. -/
theorem test_arm_rel :
    let s := after .arm (commanding #v[12, 1, 0, 0, 0, 0, 0, 0]
      (running 1000000 (withSlot 12 (loadedSlot valve) State.reset)))
    s.slot 12 = armedSlot valve .pending 1020000 0 10 ∧ s.plist = [⟨12, false⟩] := by decide

/-- 1.12, first and second rows: past by 10 is refused PAST at tolerance 8 and taken at tolerance 10. -/
theorem test_arm_past :
    let d : Descriptor := { Descriptor.zero with time := 49990, width := 1, late := .drop, tolerance := 8 }
    let arm := fun x : Descriptor => after .arm (commanding #v[20, 0, 0, 0, 0, 0, 0, 0]
      (running 50000 (withSlot 20 (loadedSlot x) State.reset)))
    (arm d).cmd.inHand = some (.finished .past) ∧ (arm d).slot 20 = loadedSlot d
      ∧ (arm { d with tolerance := 10 }).cmd.inHand = some (.finished .ok)
      ∧ ((arm { d with tolerance := 10 }).slot 20).state = .pending := by decide

/-- R18: DISARM of a PENDING slot keeps its run fields and removes its entry. -/
theorem test_disarm :
    let s := after .disarm (commanding #v[12, 0, 0, 0, 0, 0, 0, 0]
      (withPending 12 valve 1020000 10 State.reset))
    s.slot 12 = armedSlot valve .loaded 1020000 0 10 ∧ s.plist = [] := by decide

/-- R20: RELEASE clears a LOADED slot and is refused STATE while it is PENDING. -/
theorem test_release :
    (after .release (commanding #v[12, 0, 0, 0, 0, 0, 0, 0] (withSlot 12 (loadedSlot valve) State.reset))).slot 12
        = Slot.cleared
      ∧ (after .release (commanding #v[12, 0, 0, 0, 0, 0, 0, 0]
          (withPending 12 valve 1020000 10 State.reset))).cmd.inHand = some (.finished .state) := by decide

/-- 1.11, RETIME 12 with delta −5,000 (0xFFFFEC78): due 1,015,000, the time field still 20,000. -/
theorem test_retime_pending :
    let s := after .retime (commanding #v[12, 0x78, 0xEC, 0xFF, 0xFF, 0, 0, 0]
      (running 1003000 (withPending 12 valve 1020000 10 State.reset)))
    s.slot 12 = armedSlot valve .pending 1015000 0 10 ∧ s.plist = [⟨12, false⟩] := by decide

/-- R22: a SUSPENDED slot with 700 left and delta −701 would fall below 0: RANGE; with −700 it holds 0. -/
theorem test_retime_suspended :
    let s := withSlot 3 (armedSlot valve .suspended 0 700 10) State.reset
    (after .retime (commanding #v[3, 0x43, 0xFD, 0xFF, 0xFF, 0, 0, 0] s)).cmd.inHand = some (.finished .range)
      ∧ ((after .retime (commanding #v[3, 0x44, 0xFD, 0xFF, 0xFF, 0, 0, 0] s)).slot 3).remaining = 0 := by decide

/-- R24: QUERY copies the whole record. -/
theorem test_query :
    (after .query (commanding #v[12, 0, 0, 0, 0, 0, 0, 0]
      (withPending 12 valve 1015000 10 State.reset))).cmd.readback = armedSlot valve .pending 1015000 0 10 := by decide

/-! ### Groups (4.9) -/

/-- Slot 40 of 4.9: one-shot PULSE on L3, group 2. -/
def tray : Descriptor :=
  { Descriptor.zero with action := .pulse, line := some 3, width := 100, group := 2, notify := .each }

/-- 4.9: the flag is raised and the stamp written at the taking, and the walk stands before slot 0. -/
theorem test_suspendGroup :
    let s := after .suspendGroup (commanding #v[2, 0, 0, 0, 0, 0, 0, 0] (running 200000 State.reset))
    s.group 2 = ⟨true, 200000⟩ ∧ s.cmd.inHand = some (.suspendWalk 2 0) := by decide

/-- 4.9: the visit to slot 40 at T = 200,014: remaining 260,000 − 200,014 = 59,986. -/
theorem test_suspendGroupVisit :
    let s := after .suspendGroupVisit (working (.suspendWalk 2 40)
      (running 200014 (withPending 40 tray 260000 0 State.reset)))
    s.slot 40 = armedSlot tray .suspended 260000 59986 0 ∧ s.plist = []
      ∧ s.cmd.inHand = some (.suspendWalk 2 41) := by decide

/-- 4.9: RESUME_GROUP lowers the flag and keeps the stamp. -/
theorem test_resumeGroup :
    let s := after .resumeGroup (commanding #v[2, 0, 0, 0, 0, 0, 0, 0]
      (running 300000 (suspendedGroup 2 State.reset)))
    s.group 2 = ⟨false, 200000⟩ ∧ s.cmd.inHand = some (.resumeWalk 2 0) := by decide

/-- 4.9: the visit to slot 40 at T = 300,012: due 359,998, PENDING. -/
theorem test_resumeGroupVisit :
    let s := after .resumeGroupVisit (working (.resumeWalk 2 40)
      (running 300012 (withSlot 40 (armedSlot tray .suspended 260000 59986 0) State.reset)))
    (s.slot 40).due = 359998 ∧ (s.slot 40).state = .pending ∧ s.plist = [⟨40, false⟩] := by decide

/-- R80, R85: a group above 7 is refused RANGE; DISARM_GROUP needs no flag. -/
theorem test_disarmGroup :
    (after .disarmGroup (commanding #v[8, 0, 0, 0, 0, 0, 0, 0] State.reset)).cmd.inHand = some (.finished .range)
      ∧ (after .disarmGroup (commanding #v[7, 0, 0, 0, 0, 0, 0, 0] State.reset)).cmd.inHand
        = some (.disarmWalk 7 0) := by decide

/-- R85: the visit to slot 63 disarms it and ends the walk. -/
theorem test_disarmGroupVisit :
    let s := after .disarmGroupVisit (working (.disarmWalk 2 63) (withPending 63 tray 260000 0 State.reset))
    (s.slot 63).state = .loaded ∧ s.plist = [] ∧ s.cmd.inHand = some (.finished .ok) := by decide

/-! ### The Timebase (5.10, 5.11) -/

/-- R94: START sets the prescaler; one above 8 is refused RANGE. -/
theorem test_start :
    (after .start (commanding #v[4, 0, 0, 0, 0, 0, 0, 0] State.reset)).timebase
        = ⟨0, 0, 4, true, none, false, 0, some 0⟩
      ∧ (after .start (commanding #v[9, 0, 0, 0, 0, 0, 0, 0] State.reset)).cmd.inHand
        = some (.finished .range) := by decide

/-- R95: STOP holds T and E. -/
theorem test_stop :
    (after .stop (commanding (Vector.replicate 8 0) (running 777 State.reset))).timebase
      = ⟨777, 0, 0, false, none, false, 0, none⟩ := by decide

/-- The schedule of 5.11: slot 14 due 100, slot 15 due 2,147,483,000, T = 0, STOPPED. -/
def halfRange : State := withPending 15 tray 2147483000 0 (withPending 14 tray 100 0 State.reset)

/-- 5.11, KEEP_DISTANCE to 2,147,484,000 (0x80000160): both due times move with T. -/
theorem test_settime_keepDistance :
    let s := after .settime (commanding #v[0x60, 0x01, 0x00, 0x80, 0, 0, 0, 0] halfRange)
    (s.slot 14).due = 2147484100 ∧ (s.slot 15).due = 4294967000 ∧ s.now = 2147484000
      ∧ s.plist = [⟨14, false⟩, ⟨15, false⟩] := by decide

/-- 5.11, KEEP_ABSOLUTE: the list is turned to 15, 14; T and E take their values at the end of the re-sort. -/
theorem test_settime_keepAbsolute_resortComplete :
    let s := after .settime (commanding #v[0x60, 0x01, 0x00, 0x80, 0, 0, 1, 0] halfRange)
    let t := after .resortComplete s
    s.now = 0 ∧ s.plist = halfRange.plist ∧ t.now = 2147484000 ∧ t.plist = [⟨15, false⟩, ⟨14, false⟩]
      ∧ (t.slot 14).due = 100 := by decide

/-- R37, R99: a re-sort under the T that stands leaves a head that stays due where it is. -/
theorem test_resortComplete_same_time :
    let s := working (.resort 500 2) (stopped 500 { withPending 4 tray 100 0 (withPending 3 tray 0x90000000 0 State.reset)
      with plist := [⟨3, true⟩, ⟨4, false⟩] })
    (after .resortComplete s).plist = [⟨3, true⟩, ⟨4, false⟩] ∧ (after .resortComplete s).timebase.e = 2 := by decide

/-- 5.10: bit 8 rises at T = 1,000,192 and MARK, enabled, carries the new T; R93: E rises where T wraps. -/
theorem test_tick :
    let s := running 1000191 { State.reset with
      timebase := { State.reset.timebase with marker := some 8 }
      queue := { State.reset.queue with postMask := 0x1FFF } }
    (after .tick s).queue.entries = [⟨1000192, .mark⟩]
      ∧ (after .tick (running 4294967295 State.reset)).timebase = ⟨0, 1, 0, true, none, false, 0, some 0⟩ := by decide

/-- 5.10: the SYNC edge at T = 999,980 with SYNCVAL 1,000,000 shifts by 20 what is stored and posts SYNCED, where it is
enabled. -/
theorem test_syncEdge :
    let s := running 999980 (withPending 6 tray 1003000 0 (withPending 4 tray 1000100 0
      (withLine 3 { normalLine .active 0 with pulse := some ⟨2, 1000030⟩ }
        (withSlot 8 (armedSlot tray .suspended 5 700 0) { State.reset with
          timebase := { State.reset.timebase with syncEnable := true, syncVal := 1000000 } }))))
    let t := after .syncEdge s
    t.now = 1000000 ∧ (t.slot 4).due = 1000120 ∧ (t.slot 6).due = 1003020 ∧ (t.slot 8).due = 5
      ∧ (t.slot 8).remaining = 700 ∧ (t.line 3).pulse = some ⟨2, 1000050⟩
      ∧ t.queue.entries = [⟨1000000, .synced 999980⟩] := by decide

/-- R53: an edge during a fire shifts the times its copy holds, so the pulse that follows ends 200 ticks after the new T
and the slot is re-armed 1,000 after it, while FIRE keeps the fire tick as it was taken. -/
theorem test_syncEdge_during_a_fire :
    let s := firing 0
    let t := after .fire (after .syncEdge { s with
      timebase := { s.timebase with syncEnable := true, syncVal := 11020 }, queue := { s.queue with postMask := 1 } })
    (t.line 2).pulse = some ⟨3, 11220⟩ ∧ (t.slot 3).due = 12020
      ∧ t.queue.entries = [⟨11000, .fire ⟨3, some 2, 0, false, false, .done, 0⟩⟩] := by decide

/-! ### The Clock Unit (6.7) -/

/-- 6.7, t = 0: SWITCH_CLOCK EXT pends; a second one is refused STATE. -/
theorem test_switchClock :
    let s := after .switchClock (commanding #v[1, 0, 0, 0, 0, 0, 0, 0] State.reset)
    s.clock = ⟨.int, .pendingExt 0, false, .confirming 0, some 0⟩ ∧ s.cmd.inHand = some (.finished .ok)
      ∧ (after .switchClock (commanding #v[1, 0, 0, 0, 0, 0, 0, 0] { s with cmd := State.reset.cmd })).cmd.inHand
        = some (.finished .state) := by decide

/-- 6.7, t = 13.875: the 64th edge confirms the switch at T = 500,013. -/
theorem test_refclkEdge :
    let s := running 500013 { State.reset with clock := ⟨.int, .pendingExt 0, false, .confirming 63, some 0⟩ }
    (after .refclkEdge s).clock = ⟨.ext, .none, false, .watching, some 0⟩
      ∧ (after .refclkEdge s).queue.entries = [⟨500013, .clockSwitched .ext⟩] := by decide

/-- 6.7: a gap while CONFIRMING returns the count to 0; the loss at T = 600,000 falls back to INT, DEGRADED. -/
theorem test_gapTooLong :
    (after .gapTooLong { State.reset with clock := ⟨.int, .pendingExt 0, false, .confirming 20, some 0⟩ }).clock
        = ⟨.int, .pendingExt 0, false, .confirming 0, some 0⟩
      ∧ (after .gapTooLong (running 600000 { State.reset with
          clock := ⟨.ext, .none, false, .watching, some 0⟩ })).clock = ⟨.int, .none, true, .idle, none⟩
      ∧ (after .gapTooLong (running 600000 { State.reset with
          clock := ⟨.ext, .none, false, .watching, some 0⟩ })).queue.entries = [⟨600000, .clockLoss⟩] := by decide

/-- 6.7, the second request: the timeout posts CLOCK_FAIL and DEGRADED stays raised. -/
theorem test_switchTimeout :
    let s := after .switchTimeout { State.reset with clock := ⟨.int, .pendingExt 0, true, .confirming 0, some 0⟩ }
    s.clock = ⟨.int, .none, true, .idle, none⟩ ∧ s.queue.entries = [⟨0, .clockFail⟩] := by decide

/-! ### Output lines (3.11) -/

/-- R66: a pattern goes to the empty current buffer, then to the next one, and a third is refused FULL. -/
theorem test_loadPattern :
    let load := fun s : State => after .loadPattern (commanding #v[6, 0x05, 0, 0, 0, 3, 0, 0] { s with
      cmd := State.reset.cmd })
    ((load State.reset).line 6).current = ⟨5, 3⟩ ∧ ((load (load State.reset)).line 6).next = some ⟨5, 3⟩
      ∧ (load (load (load State.reset))).cmd.inHand = some (.finished .full) := by decide

/-- R67: both buffers are emptied. -/
theorem test_clearPattern :
    let s := after .clearPattern (commanding #v[6, 0, 0, 0, 0, 0, 0, 0]
      (withLine 6 { normalLine .active 0 with current := ⟨5, 3⟩, next := some ⟨1, 1⟩ } State.reset))
    (s.line 6).current.count = 0 ∧ (s.line 6).next = none ∧ (s.line 6).level = .active := by decide

/-- 3.11, T = 109,500: CLEAR_TRIP returns L6 to NORMAL; R71: a NORMAL line is refused STATE. -/
theorem test_clearTrip :
    (after .clearTrip (commanding #v[6, 0, 0, 0, 0, 0, 0, 0]
        (withLine 6 { normalLine .inactive 40 with mode := .tripped } State.reset))).line 6 = normalLine .inactive 40
      ∧ (after .clearTrip (commanding #v[6, 0, 0, 0, 0, 0, 0, 0]
        (withLine 6 (normalLine .inactive 40) State.reset))).cmd.inHand = some (.finished .state) := by decide

/-- R59: the lock comes into force once. -/
theorem test_lockLines :
    (after .lockLines (commanding (Vector.replicate 8 0) State.reset)).lineUnit.locked = true := by decide

/-- R74, R75: SAFE stands before slot 0; its slot walk goes on to line 0. -/
theorem test_safe_and_safeSlotVisit :
    (after .safe (commanding (Vector.replicate 8 0) State.reset)).cmd.inHand = some (.safeSlots 0)
      ∧ (after .safeSlotVisit (working (.safeSlots 63) (withPending 63 tray 5 0 State.reset))).cmd.inHand
        = some (.safeLines 0)
      ∧ (after .safeSlotVisit (working (.safeSlots 63) (withPending 63 tray 5 0 State.reset))).plist = [] := by decide

/-- R75: a NORMAL line goes to its safe level without pulse or patterns. -/
theorem test_safeLineVisit :
    let s := after .safeLineVisit (working (.safeLines 15) (withLine 15
      { normalLine .active 0 with pulse := some ⟨1, 9⟩, current := ⟨5, 3⟩, guardCount := 4 } State.reset))
    s.line 15 = normalLine .inactive 0 ∧ s.cmd.inHand = some (.finished .ok) := by decide

/-- R63: the release taken at its time. -/
theorem test_releaseOfAPulse :
    let s := withLine 2 { normalLine .active 0 with pulse := some ⟨3, 11200⟩, guardCount := 7 } State.reset
    (after (.releaseOfAPulse 2) (running 11200 s)).line 2 = normalLine .inactive 0
      ∧ (after (.releaseOfAPulse 2) (running 11199 s)) = running 11199 s := by decide

/-- 3.11, T = 105,000: the 40th guard tick trips L6. -/
theorem test_guardTick :
    let s := running 105000 (withLine 6 { normalLine .active 40 with
      pulse := some ⟨11, 108000⟩, guardCount := 39 } State.reset)
    s.trippingLines = [6]
      ∧ (s.line 6).guardTick = { normalLine .inactive 40 with mode := .tripped } := by decide

/-- R132: the posts of one guard tick, others let in behind the first. -/
theorem test_guardTick_posts_to_come :
    let s := after .guardTick (paused 0 { running 9 State.reset with
      lineUnit := { State.reset.lineUnit with trips := [(6, 7), (2, 7)] } })
    s.queue.entries = [⟨7, .guardTrip 6⟩] ∧ s.lineUnit.trips = [(2, 7)]
      ∧ (after .guardTick s).queue.entries = [⟨7, .guardTrip 6⟩, ⟨7, .guardTrip 2⟩]
      ∧ (after .guardTick s).lineUnit.trips = [] := by decide

/-- R72: HOLDN falls on a NORMAL line with safe level ACTIVE. -/
theorem test_holdnAssertion :
    let l : Line := { normalLine .inactive 0 with config := ⟨true, .activeHigh, .pushPull, .active, 0⟩ }
    ((after .holdnAssertion (withLine 1 l State.reset)).line 1).mode = .forced .normal
      ∧ ((after .holdnAssertion (withLine 1 l State.reset)).line 1).level = .active
      ∧ (after .holdnAssertion State.reset).line 1 = Line.atReset := by decide

/-- R73: HOLDN rises: a held TRIPPED line returns to TRIPPED, INACTIVE, driven. -/
theorem test_holdnRelease :
    let l : Line := { normalLine .active 0 with mode := .forced .tripped }
    let s := withLine 1 l { State.reset with pins := { State.reset.pins with holdnLow := true } }
    (after .holdnRelease s).line 1 = { normalLine .inactive 0 with mode := .tripped }
      ∧ (after .holdnRelease s).pins.holdnLow = false := by decide

/-- R58, R162: the byte 0x00 at 0x43 commits enabled, guard limit 40 held in the two lower bytes. -/
theorem test_lineConfigurationCommit :
    let s := writing 0x43 { State.reset with
      window := { State.reset.window with lineSel := 6, hold := { State.reset.window.hold with lineConfig := 0x2801 } } }
    (after (.lineConfigurationCommit 0) s).line 6 = normalLine .inactive 40
      ∧ (after (.lineConfigurationCommit 0) { s with lineUnit := { s.lineUnit with locked := true } }).lineUnit.lockViol
        = true := by decide

/-! ### Fires (2.10, 2.11) -/

/-- 2.11, first occurrence: L2 ACTIVE until 11,200, re-armed at 12,000, FIRE then CHAIN_MISS. -/
theorem test_fire_applies_rearms_and_misses :
    let s := after .fire fire3
    (s.line 2).pulse = some ⟨3, 11200⟩ ∧ (s.slot 3).due = 12000 ∧ (s.slot 3).repeatsLeft = 2
      ∧ s.queue.entries = [⟨11000, .fire ⟨3, some 2, 0, false, false, .done, 0⟩⟩, ⟨11000, .chainMiss 3 7⟩]
      ∧ s.dispatcher = .idle := by decide

/-- R38, R51, R53: taken alone, the fire has left the list while its slot is still PENDING and its line untouched; at the
stage behind the FIRE post only CHAIN_MISS is to come; R82: a flag raised before its placement makes the slot SUSPENDED. -/
theorem test_fire_stage_by_stage :
    (firing 0).dispatcher = .firing copy3 .apply ∧ (firing 0).plist = [] ∧ ((firing 0).slot 3).state = .pending
      ∧ (firing 0).line 2 = normalLine .inactive 0
      ∧ (firing 4).queue.entries = [⟨11000, .fire ⟨3, some 2, 0, false, false, .done, 0⟩⟩]
      ∧ (after .fire (firing 4)).queue.entries = (after .fire fire3).queue.entries
      ∧ (after .fire (running 11004 (suspendedGroup 0 (firing 1)))).slot 3
        = { armedSlot slot3 .suspended 12000 1000 2 with occurrences := 1 } := by decide

/-- 2.10, slot 31: past by 250 with tolerance 10 and period 100: dropped, two skipped, re-armed at 5,300. -/
theorem test_fire_drops_and_skips :
    let d : Descriptor :=
      { Descriptor.zero with
        action := .toggle, period := 100, width := 1, late := .drop, tolerance := 10, notify := .each }
    let s := after .fire (running 5250 (withPending 31 d 5000 0 (withLine 0 (normalLine .inactive 0) State.reset)))
    (s.slot 31).due = 5300 ∧ (s.slot 31).occurrences = 1 ∧ (s.slot 31).skipTotal = 2
      ∧ (s.line 0).level = .inactive
      ∧ s.queue.entries = [⟨5250, .fire ⟨31, some 0, 250, true, false, .dropped, 2⟩⟩] := by decide

/-! ### Capture inputs (R117 to R126) -/

/-- K1 with both edges selected, a filter of `f` ticks, and a trigger of slot 8, 500 ticks after the stamp. -/
def watched (f : Byte) (filter : Filter) : Channel := ⟨.both, f, some 8, 500, filter, none⟩

/-- R117: with F = 5 a change qualifies; R122 to R124: with F = 0 it is recorded and triggers at once. -/
theorem test_captureInputChange :
    let s := fun f => running 2000 (withChannel 1 (watched f (.stable false)) false
      (withSlot 8 (loadedSlot tray) State.reset))
    ((after (.captureInputChange 1) (s 5)).channel 1).filter = .qualifying false 2000 2005
      ∧ (after (.captureInputChange 1) (s 0)).capture.fifo = [⟨1, .rise, 2000⟩]
      ∧ ((after (.captureInputChange 1) (s 0)).slot 8).due = 2500
      ∧ (after (.captureInputChange 1) (s 0)).plist = [⟨8, false⟩] := by decide

/-- R118: the acceptance carries the candidate stamp; R123: watermark 1 is reached and posts CAPTURE_LEVEL at T; R124:
a slot that is not LOADED misses. -/
theorem test_acceptance :
    let s := after (.acceptance 1) (running 2006
      (withChannel 1 (watched 5 (.qualifying false 2000 2005)) true State.reset))
    (s.channel 1).filter = .stable true ∧ s.capture.fifo = [⟨1, .rise, 2000⟩]
      ∧ s.queue.entries = [⟨2006, .captureLevel 1⟩, ⟨2006, .triggerMiss 8 1⟩] := by decide

/-- R122, R132: where others are let in behind the CAPTURE_LEVEL, the TRIGGER_MISS is still to come. -/
theorem test_acceptance_in_two :
    let s := after (.acceptance 1) (paused 0 (running 2006
      (withChannel 1 (watched 5 (.qualifying false 2000 2005)) true State.reset)))
    s.queue.entries = [⟨2006, .captureLevel 1⟩] ∧ (s.channel 1).arm = some ⟨8, 2500⟩
      ∧ (after (.acceptance 1) s).queue.entries = [⟨2006, .captureLevel 1⟩, ⟨2006, .triggerMiss 8 1⟩]
      ∧ ((after (.acceptance 1) s).channel 1).arm = none := by decide

/-- R121: F changes from 5 to 9 while qualifying; the acceptance time moves with it. -/
theorem test_channelConfigurationCommit :
    let s := writing 0x53 (running 2003 (withChannel 1 (watched 5 (.qualifying false 2000 2005)) true { State.reset with
      window := { State.reset.window with
        capSel := 1, hold := { State.reset.window.hold with capConfig := 0x0001F4080903 } } }))
    (after (.channelConfigurationCommit 0) s).channel 1 = watched 9 (.qualifying false 2000 2009) := by decide

/-- R125: a pop latches the head and counts what is left; R126: a flush keeps the latch. -/
theorem test_capturePop_and_flushCapture :
    let s := after .capturePop (reading 0x79 { State.reset with
      capture := { State.reset.capture with fifo := [⟨2, .fall, 9⟩, ⟨0, .rise, 10⟩] } })
    s.capture.fifo = [⟨0, .rise, 10⟩] ∧ s.capture.latch = ⟨some ⟨2, .fall, 9⟩, 1⟩ ∧ s.port.sdo = some 2
      ∧ (after .flushCapture (commanding (Vector.replicate 8 0) s)).capture
        = { s.capture with fifo := [] } := by decide

/-! ### Notifications (8.7) -/

/-- 8.7: a post to 31 entries whose last is a FIRE makes OV(1) with stamp T; the next is counted there. -/
theorem test_append_overflow :
    let q : List Notification := List.replicate 31 ⟨4000, .clockFail⟩
    (State.post (stopped 4100 (withEntries q State.reset)) 4099 .clockFail).queue.entries = q ++ [⟨4100, .overflow 1⟩]
      ∧ (State.post (stopped 5000 (withEntries (List.replicate 30 ⟨4000, .clockFail⟩ ++ [⟨4100, .overflow 9⟩]) State.reset))
          5000 .clockFail).queue.entries = List.replicate 30 ⟨4000, .clockFail⟩ ++ [⟨4100, .overflow 10⟩] := by decide

/-- R135, R163: a pop of an empty queue latches the empty entry, which reads kind 0 and then 0xFF. -/
theorem test_notificationPop :
    let s := after .notificationPop (reading 0x6D (withEntries [⟨105000, .guardTrip 6⟩] State.reset))
    let t := after .notificationPop (reading 0x6D s)
    s.queue.latch = some ⟨105000, .guardTrip 6⟩ ∧ s.queue.entries = [] ∧ s.port.sdo = some 0x03
      ∧ s.byteAt 0x6F = 6 ∧ t.queue.latch = none ∧ t.byteAt 0x6E = 0xFF := by decide

/-- R132: a pop between the two posts of a fire takes the FIRE, and CHAIN_MISS follows into the empty queue. -/
theorem test_notificationPop_between_posts :
    let s := after .notificationPop (reading 0x6D (firing 4))
    s.queue.entries = [] ∧ (after .fire s).queue.entries = [⟨11000, .chainMiss 3 7⟩] := by decide

/-- R137: an entry asserts IRQN while the enable is on. -/
theorem test_irqEnableWrite :
    let s := after (.irqEnableWrite 0x02) (writing 0x64 (withEntries [⟨0, .clockFail⟩] State.reset))
    s.irqnAsserted = true ∧ s.timebase.syncEnable = false
      ∧ (withEntries [⟨0, .clockFail⟩] State.reset).irqnAsserted = false := by decide

/-! ### The Command Unit (9.8) -/

/-- 9.8, t = 3.8: ARM is written while BUSY: COLLIDE is raised and the code in hand stays. -/
theorem test_collide :
    let s := after (.collide 0x02) (writing cmdAddr (working (.finished .ok) State.reset))
    s.cmd.collide = true ∧ s.cmd.code = 0x10 ∧ s.cmd.inHand = some (.finished .ok) := by decide

/-- R141: 0x07 names no command. -/
theorem test_unknownCommand :
    let s := after (.unknownCommand 0x07) (writing cmdAddr State.reset)
    s.cmd.code = 0x07 ∧ s.cmd.inHand = some (.finished .unknown) := by decide

/-- R144: the completion, with CMD_DONE enabled. -/
theorem test_commandCompletion :
    let s := after .commandCompletion (working (.finished .ok) { State.reset with
      queue := { State.reset.queue with postMask := 0x1FFF } })
    s.cmd.inHand = none ∧ s.cmd.result = .ok ∧ s.cmd.done = true ∧ s.queue.entries = [⟨0, .cmdDone 0x10 .ok⟩] := by
  decide

/-- R150: SOFT_RESET empties the slots, keeps the configuration of a line, and completes without CMD_DONE. -/
theorem test_softReset :
    let s := after .softReset (commanding (Vector.replicate 8 0) (running 500 (withPending 12 valve 1020000 10
      (withLine 6 (normalLine .active 40) { State.reset with
        queue := { State.reset.queue with postMask := 0x1FFF } }))))
    s.slot 12 = Slot.cleared ∧ s.plist = [] ∧ s.line 6 = normalLine .inactive 40 ∧ s.now = 0
      ∧ s.timebase.running = false ∧ (after .commandCompletion s).queue.entries = []
      ∧ (after .commandCompletion s).cmd.result = .ok := by decide

/-- R139, R150, R154: others let in behind the stage on the Slot Table, a pop still finds what the queue held; the rest of
the stages follow. -/
theorem test_softReset_stage_by_stage :
    let s := after .softReset (commanding (Vector.replicate 8 0) (paused 3 (running 500 (suspendedGroup 2
      (withPending 12 valve 1020000 10 (withEntries [⟨0, .clockFail⟩] State.reset))))))
    let t := after .notificationPop (reading 0x6D s)
    s.cmd.inHand = some (.softReset .groups) ∧ s.slot 12 = Slot.cleared ∧ (s.group 2).suspended = true ∧ s.now = 500
      ∧ t.queue.latch = some ⟨0, .clockFail⟩ ∧ (after .commandCompletion t).queue.latch = t.queue.latch
      ∧ (after .commandCompletion t).now = 0 ∧ (after .commandCompletion t).cmd.result = .ok := by decide

/-! ### The register window and the Serial Port -/

/-- 9.8: the two lower bytes of the staging period wait in holding; the highest commits 70,000 (0x011170). -/
theorem test_registerWrite_holds_and_commits :
    let s := after (.registerWrite 0x11) (after (.registerWrite 0x70) (writing 0x15 State.reset))
    s.cmd.staging.period = 0 ∧ (after (.registerWrite 0x01) s).cmd.staging.period = 70000
      ∧ (after (.registerWrite 0x01) s).port.pointer = 0x18 := by decide

/-- R153: the pointer wraps from 127 to 0, and a write of 0x7F is ignored. -/
theorem test_registerWrite_wraps :
    (after (.registerWrite 0xAA) (writing 0x7F State.reset)) = writing 0x00 State.reset := by decide

/-- R158: STATUS shows COLLIDE and HOLD and lowers COLLIDE. -/
theorem test_statusRead :
    let s := after .statusRead (reading 0x02 { State.reset with
      cmd := { State.reset.cmd with collide := true, done := true }
      pins := { State.reset.pins with holdnLow := true } })
    s.port.sdo = some 0x85 ∧ s.cmd.collide = false ∧ s.cmd.done = true := by decide

/-- R156, R104: TIME is latched whole by its lowest byte, and the later bytes come from the latch. -/
theorem test_latchRead :
    let s := after .latchRead (reading 0x59 (stopped 0x01020304 State.reset))
    s.port.sdo = some 0x04 ∧ (after .latchRead (stopped 0 s)).port.sdo = some 0x03 := by decide

/-- R161: with chain target NONE the chain offset reads 0, whatever was committed. -/
theorem test_latchRead_chainOffset :
    let s := fun chain => reading 0x1E { State.reset with
      cmd := { State.reset.cmd with staging := { Staging.zero with chain := chain, chainOffset := 0x123456 } } }
    (after .latchRead (s 0x7F)).port.sdo = some 0 ∧ (after .latchRead (s 5)).port.sdo = some 0x56 := by decide

/-- R153: CSN falls, the address byte 0x82 begins a read at 0x02, CSN rises. -/
theorem test_frame :
    let s := after .frameStart State.reset
    s.port.frame = .address ∧ (after (.addressByte 0x82) s).port = ⟨.read, 0x02, none, false⟩
      ∧ (after (.addressByte 0x0E) s).port.frame = .write ∧ (after .frameEnd s).port.frame = .idle := by decide

/-- R2, R154: full reset gives every record its reset value; while RSTN is low a frame does not begin. -/
theorem test_fullReset :
    let s := after .fullReset (withPending 12 valve 5 10 (running 9 (writing 0x02 State.reset)))
    s.slot 12 = Slot.cleared ∧ s.now = 0 ∧ s.port.frame = .idle
      ∧ (after .frameStart (after .frameEnd s)).port.frame = .idle
      ∧ (after .endOfFullReset s).pins.rstnLow = false := by decide

/-- Log 1: step takes the head of the queue, and idles on an empty one. -/
theorem test_step :
    (match step { State.reset with pending := [.tick, .frameStart] } with
      | .next t => t.pending = [Instr.frameStart]
      | _ => False)
      ∧ step State.reset = .next State.reset := ⟨rfl, rfl⟩

/-! ### Witnesses: concrete states that meet the hypotheses of each statement, clause by clause

The statement that a witness belongs to is named after `test_witness_`. -/

/-- A write of CMD finds the unit IDLE. -/
theorem commanding_takes (args : Vector Byte 8) {s : State} (h : s.cmd.inHand = none) :
    TakesCommand (commanding args s) := ⟨⟨rfl, rfl⟩, h⟩

/-- The ARG bytes, the first of them given. -/
def arg0 (b : Byte) : Vector Byte 8 := #v[b, 0, 0, 0, 0, 0, 0, 0]

/-- A fire in progress has an end. -/
theorem fire_has_end {s : State} (h : s.dispatcher ≠ .idle) : ∃ u : State, FireEnded s u :=
  ⟨_, (fireEnded_iff s _).2 ⟨h, rfl⟩⟩

theorem test_witness_StepTakesTheHead :
    ({ State.reset with pending := [.tick, .fire] } : State).pending = .tick :: [.fire]
      ∧ State.reset.pending = [] := by decide

/-- Slot 63 at its bounds; a record that passes R12 and one that fails it. -/
theorem test_witness_LoadChecksAndStores :
    let s := fun r : Staging => commanding (arg0 63) { State.reset with
      cmd := { State.reset.cmd with staging := r } }
    (∀ r, TakesCommand (s r) ∧ (argNow (s r) 0).toNat = (63 : SlotId).val ∧ NotFired (s r) 63
        ∧ ((s r).slot 63).state = .empty ∧ (s r).cmd.staging = r)
      ∧ PassesR12 (stagingOf valve) ∧ ¬ PassesR12 { stagingOf valve with width := 4000 }
      ∧ ((withSlot 63 (loadedSlot valve) (s (stagingOf valve))).slot 63).state = .loaded := by
  refine ⟨fun r => ⟨commanding_takes _ rfl, ?_, (fun h => nomatch h), ?_, rfl⟩, ?_, ?_, ?_⟩
  · show ((arg0 63)[0]).toNat = 63; decide
  · show (State.reset.slot 63).state = .empty; decide
  · unfold PassesR12; decide
  · unfold PassesR12; decide
  · decide

/-- The slot bytes 63 and 64, a slot in each state, and a command on the slot being fired. -/
theorem test_witness_SlotCommandRefusals :
    TakesCommand (commanding (arg0 64) State.reset) ∧ 64 ≤ (argNow (commanding (arg0 64) State.reset) 0).toNat
      ∧ (∀ st : SlotState, TakesCommand (commanding (arg0 63) (withSlot 63 { loadedSlot valve with state := st } State.reset))
        ∧ (argNow (commanding (arg0 63) (withSlot 63 { loadedSlot valve with state := st } State.reset)) 0).toNat
            = (63 : SlotId).val
        ∧ NotFired (commanding (arg0 63) (withSlot 63 { loadedSlot valve with state := st } State.reset)) 63
        ∧ ((commanding (arg0 63) (withSlot 63 { loadedSlot valve with state := st } State.reset)).slot 63).state = st)
      ∧ TakesCommand (commanding (arg0 3) (firing 1))
      ∧ (argNow (commanding (arg0 3) (firing 1)) 0).toNat = (3 : SlotId).val
      ∧ (commanding (arg0 3) (firing 1)).firedSlot = some 3
      ∧ ∃ u, FireEnded (commanding (arg0 3) (firing 1)) u := by
  refine ⟨commanding_takes _ rfl, by decide, fun st => ⟨commanding_takes _ rfl, ?_, (fun h => nomatch h), ?_⟩,
    commanding_takes _ rfl, by decide, by decide, fire_has_end (by decide)⟩
  · show ((arg0 63)[0]).toNat = 63; decide
  · cases st <;> decide

/-- ABS and REL; a DROP slot past by exactly its tolerance; REL at its bound 2^31 − 1. -/
theorem test_witness_ArmTakes :
    let d : Descriptor := { valve with time := 49990, late := .drop, tolerance := 10 }
    let s := commanding (arg0 12) (running 50000 (withSlot 12 (loadedSlot d) State.reset))
    let r := commanding #v[12, 1, 0, 0, 0, 0, 0, 0]
      (running 50000 (withSlot 12 (loadedSlot { d with time := 2147483647 }) State.reset))
    (TakesCommand s ∧ ListMatchesSlots s ∧ (argNow s 0).toNat = (12 : SlotId).val ∧ NotFired s 12
        ∧ (s.slot 12).state = .loaded ∧ argNow s 1 = 0 ∧ -((s.slot 12).desc.tolerance.toNat : Int) ≤ signedDistance 49990 s.now)
      ∧ TakesCommand r ∧ ListMatchesSlots r ∧ (argNow r 0).toNat = (12 : SlotId).val ∧ NotFired r 12
        ∧ (r.slot 12).state = .loaded ∧ argNow r 1 = 1 ∧ (r.slot 12).desc.time.toNat < 2 ^ 31
        ∧ -((r.slot 12).desc.tolerance.toNat : Int) ≤ signedDistance (r.now + 2147483647) r.now := by
  refine ⟨⟨commanding_takes _ rfl, ?_, ?_⟩, commanding_takes _ rfl, ?_, ?_⟩ <;>
    first | (unfold NotFired; decide) | (unfold ListMatchesSlots; decide)

/-- The mode bytes 2 and 255, a REL time field of 2^31, and a DROP slot past by its tolerance and one. -/
theorem test_witness_ArmRefuses :
    let s := fun (mode : Byte) (time : Tick) => commanding #v[12, mode, 0, 0, 0, 0, 0, 0]
      (running 50000 (withSlot 12 (loadedSlot { valve with time := time, late := .drop, tolerance := 8 }) State.reset))
    (∀ mode time, TakesCommand (s mode time) ∧ NotFired (s mode time) 12)
      ∧ (argNow (s 2 0) 0).toNat = (12 : SlotId).val ∧ ((s 2 0).slot 12).state = .loaded
      ∧ argNow (s 2 0) 1 ≠ 0 ∧ argNow (s 2 0) 1 ≠ 1 ∧ argNow (s 255 0) 1 ≠ 0
      ∧ argNow (s 1 2147483648) 1 = 1 ∧ 2 ^ 31 ≤ ((s 1 2147483648).slot 12).desc.time.toNat
      ∧ argNow (s 0 49991) 1 = 0
      ∧ signedDistance ((s 0 49991).slot 12).desc.time (s 0 49991).now < -(8 : Int) := by
  refine ⟨fun _ _ => ⟨commanding_takes _ rfl, fun h => nomatch h⟩, ?_⟩; decide

theorem test_witness_DisarmReleaseQueryTake :
    (TakesCommand (commanding (arg0 0) (withPending 0 valve 5 10 State.reset))
        ∧ ((commanding (arg0 0) (withPending 0 valve 5 10 State.reset)).slot 0).state = .pending
        ∧ (argNow (commanding (arg0 0) (withPending 0 valve 5 10 State.reset)) 0).toNat = (0 : SlotId).val
        ∧ NotFired (commanding (arg0 0) (withPending 0 valve 5 10 State.reset)) 0)
      ∧ ((commanding (arg0 0) (withSlot 0 (armedSlot valve .suspended 5 9 10) State.reset)).slot 0).state = .suspended
      ∧ ((commanding (arg0 0) (withSlot 0 (loadedSlot valve) State.reset)).slot 0).state = .loaded := by
  refine ⟨⟨commanding_takes _ rfl, ?_⟩, by decide⟩
  unfold NotFired; decide

/-- SUSPENDED at both bounds: 700 − 700 = 0 and 700 + 2,147,482,947 = 2^31 − 1 are kept, one further each way is not. -/
theorem test_witness_RetimeMoves :
    let s := withSlot 3 (armedSlot valve .suspended 0 700 10) State.reset
    let a := fun args : Vector Byte 8 => commanding args s
    (∀ args, TakesCommand (a args) ∧ NotFired (a args) 3) ∧ (s.slot 3).state = .suspended
      ∧ (argNow (a #v[3, 0x44, 0xFD, 0xFF, 0xFF, 0, 0, 0]) 0).toNat = (3 : SlotId).val
      ∧ (700 : Int) + (argWordNow (a #v[3, 0x44, 0xFD, 0xFF, 0xFF, 0, 0, 0])).toInt = 0
      ∧ (700 : Int) + (argWordNow (a #v[3, 0x43, 0xFD, 0xFF, 0xFF, 0, 0, 0])).toInt = -1
      ∧ (700 : Int) + (argWordNow (a #v[3, 0x43, 0xFD, 0xFF, 0x7F, 0, 0, 0])).toInt = 2 ^ 31 - 1
      ∧ (700 : Int) + (argWordNow (a #v[3, 0x44, 0xFD, 0xFF, 0x7F, 0, 0, 0])).toInt = 2 ^ 31
      ∧ ((withPending 3 valve 5 10 State.reset).slot 3).state = .pending
      ∧ ((withSlot 3 (loadedSlot valve) State.reset).slot 3).state = .loaded := by
  refine ⟨fun _ => ⟨commanding_takes _ rfl, fun h => nomatch h⟩, ?_⟩; decide

theorem test_witness_InsertionPlace :
    let key := fun e : Entry => (e.slot.val : Int)
    key ⟨5, false⟩ = 5
      ∧ ([⟨2, false⟩, ⟨5, true⟩, ⟨9, false⟩] : List Entry).Pairwise fun a b => key a ≤ key b := by decide

/-- The group bytes 7 and 8; a raised and a lowered flag. -/
theorem test_witness_GroupCommandsBegin :
    TakesCommand (commanding (arg0 8) State.reset) ∧ 8 ≤ (argNow (commanding (arg0 8) State.reset) 0).toNat
      ∧ (argNow (commanding (arg0 7) State.reset) 0).toNat = (7 : GroupId).val
      ∧ (State.reset.group 7).suspended = false ∧ ((suspendedGroup 7 State.reset).group 7).suspended = true := by
  refine ⟨commanding_takes _ rfl, ?_⟩; decide

/-- Slots 0 and 63 of the walk; a PENDING member, one kept due, and a slot of another group; the slot being fired. -/
theorem test_witness_SuspendVisit :
    let s := fun i : SlotId => working (.suspendWalk 2 i) (withPending i tray 260000 0 State.reset)
    let f := working (.suspendWalk 0 3) (firing 0)
    (ListMatchesSlots (s 63) ∧ (s 63).cmd.inHand = some (.suspendWalk 2 63) ∧ NotFired (s 63) 63
        ∧ ((s 63).slot 63).desc.group = 2 ∧ ((s 63).slot 63).state = .pending)
      ∧ (ListMatchesSlots { s 63 with plist := [⟨63, true⟩] } ∧ NotFired { s 63 with plist := [⟨63, true⟩] } 63)
      ∧ (ListMatchesSlots (s 0) ∧ (s 0).cmd.inHand = some (.suspendWalk 2 0) ∧ NotFired (s 0) 0
        ∧ ((s 0).slot 0).desc.group ≠ 3 ∧ ((s 0).slot 1).state ≠ .pending)
      ∧ f.cmd.inHand = some (.suspendWalk 0 3) ∧ f.firedSlot = some 3 ∧ ∃ u, FireEnded f u := by
  refine ⟨?_, ?_, ?_, by decide, by decide, fire_has_end (by decide)⟩ <;> unfold ListMatchesSlots NotFired <;> decide

theorem test_witness_ResumeVisit :
    let s := fun i : SlotId => working (.resumeWalk 2 i)
      (withSlot i (armedSlot tray .suspended 260000 59986 0) State.reset)
    let f := working (.resumeWalk 0 3) (firing 0)
    (ListMatchesSlots (s 63) ∧ (s 63).cmd.inHand = some (.resumeWalk 2 63) ∧ NotFired (s 63) 63
        ∧ ((s 63).slot 63).desc.group = 2 ∧ ((s 63).slot 63).state = .suspended)
      ∧ (ListMatchesSlots (s 0) ∧ (s 0).cmd.inHand = some (.resumeWalk 2 0) ∧ NotFired (s 0) 0
        ∧ ((s 0).slot 0).state = .suspended)
      ∧ f.cmd.inHand = some (.resumeWalk 0 3) ∧ f.firedSlot = some 3 ∧ ∃ u, FireEnded f u := by
  refine ⟨?_, ?_, by decide, by decide, fire_has_end (by decide)⟩ <;> unfold ListMatchesSlots NotFired <;> decide

theorem test_witness_DisarmVisits :
    let p := withPending 63 tray 260000 0 State.reset
    let f := fun w : Work => working w (firing 2)
    ((working (.disarmWalk 2 63) p).cmd.inHand = some (.disarmWalk 2 63) ∧ (p.slot 63).desc.group = 2
        ∧ (p.slot 63).state = .pending ∧ p.firedSlot ≠ some 63)
      ∧ ((withSlot 0 (armedSlot tray .suspended 1 2 0) p).slot 0).state = .suspended
      ∧ (p.slot 1).desc.group ≠ 2 ∧ (p.slot 1).state = .empty
      ∧ (working (.safeSlots 63) p).cmd.inHand = some (.safeSlots 63)
      ∧ (working (.safeSlots 0) p).cmd.inHand = some (.safeSlots 0)
      ∧ ∀ w : Work, (f w).cmd.inHand = some w ∧ (f w).firedSlot = some 3 ∧ ∃ u, FireEnded (f w) u := by
  refine ⟨by decide, by decide, by decide, by decide, by decide, by decide, fun w => ⟨rfl, ?_, fire_has_end ?_⟩⟩
  · show (firing 2).firedSlot = some 3; decide
  · show (firing 2).dispatcher ≠ .idle; decide

/-- START at prescalers 8 and 9, STOPPED and RUNNING; STOP with a qualification under way and without, and with trigger
arms still to come, the lowest channel's that of channel 1. -/
theorem test_witness_StartAndStop :
    let h := commanding (arg0 0) (running 5
      (withChannel 3 { watched 0 (.stable true) with arm := some ⟨9, 9⟩ } true
        (withChannel 1 { watched 0 (.stable true) with arm := some ⟨8, 7⟩ } true State.reset)))
    TakesCommand (commanding (arg0 9) State.reset) ∧ State.reset.timebase.running = false
      ∧ 9 ≤ (argNow (commanding (arg0 9) State.reset) 0).toNat
      ∧ (argNow (commanding (arg0 8) State.reset) 0).toNat = (8 : Fin 9).val
      ∧ TakesCommand (commanding (arg0 0) (running 5 State.reset)) ∧ (running 5 State.reset).timebase.running = true
      ∧ NoArms (commanding (arg0 0) (running 5 State.reset))
      ∧ ((withChannel 1 (watched 5 (.qualifying false 2000 2005)) true State.reset).channel 1).filter
        = .qualifying false 2000 2005
      ∧ (State.reset.channel 1).filter = .stable false
      ∧ TakesCommand h ∧ h.timebase.running = true ∧ (h.channel 1).arm ≠ none
      ∧ (∀ j : ChannelId, j < 1 → (h.channel j).arm = none) ∧ ∃ u, exec (.acceptance 1) h = .next u := by
  refine ⟨commanding_takes _ rfl, rfl, by decide, by decide, commanding_takes _ rfl, by decide, ?_, by decide, by decide,
    commanding_takes _ rfl, by decide, by decide, by decide, _, rfl⟩
  unfold NoArms; decide

/-- The mode bytes 0, 1 and 2; a listed slot and one that is not; a fire taken before STOP. -/
theorem test_witness_SettimeKeepsDistance :
    let s := fun mode : Byte => commanding #v[0, 0, 0, 0, 0, 0, mode, 0] halfRange
    (∀ mode, TakesCommand (s mode)) ∧ (s 0).timebase.running = false ∧ argNow (s 0) 6 = 0
      ∧ argNow (s 2) 6 ≠ 0 ∧ argNow (s 2) 6 ≠ 1
      ∧ (commanding (arg0 0) (running 0 halfRange)).timebase.running = true
      ∧ (s 0).listed 14 = true ∧ (s 0).listed 13 = false ∧ (⟨15, false⟩ : Entry) ∈ (s 0).plist
      ∧ (s 0).dispatcher = .idle
      ∧ TakesCommand (commanding (arg0 0) (stopped 11000 (firing 0)))
      ∧ (stopped 11000 (firing 0)).dispatcher = .firing copy3 .apply := by
  refine ⟨fun _ => commanding_takes _ rfl, by decide, by decide, by decide, by decide, by decide, by decide, by decide,
    by decide, by decide, commanding_takes _ rfl, by decide⟩

/-- A new T that differs from the old and one that does not; a fire taken before STOP. -/
theorem test_witness_SettimeResorts :
    let s := commanding #v[0, 0, 0, 0, 0, 0, 1, 0] halfRange
    let f := commanding #v[0, 0, 0, 0, 0, 0, 1, 0] (stopped 11000 (firing 0))
    TakesCommand s ∧ s.timebase.running = false ∧ argNow s 6 = 1 ∧ s.dispatcher = .idle
      ∧ (working (.resort 2147484000 0) halfRange).cmd.inHand = some (.resort 2147484000 0)
      ∧ (2147484000 : Tick) ≠ halfRange.now ∧ (0 : Tick) = halfRange.now
      ∧ TakesCommand f ∧ f.timebase.running = false ∧ argNow f 6 = 1 ∧ ∃ u, FireEnded f u :=
  ⟨commanding_takes _ rfl, by decide, by decide, by decide, by decide, by decide, by decide, commanding_takes _ rfl,
    by decide, by decide, fire_has_end (by decide)⟩

/-- T at its last value, a marker bit that rises and one that does not, and an entry past by 2^31. -/
theorem test_witness_TickCounts :
    State.reset.timebase.running = false
      ∧ (running 4294967295 State.reset).timebase.running = true
      ∧ (running 4294967295 State.reset).now.toNat = 2 ^ 32 - 1
      ∧ (running 255 State.reset).now.getLsbD 8 = false ∧ ((running 255 State.reset).now + 1).getLsbD 8 = true
      ∧ signedDistance ((withPending 3 tray 0 0 State.reset).slot 3).due 2147483648 = -2147483648 := by decide

theorem test_witness_SyncEdgeLoads :
    let s := running 999980 (withPending 4 tray 1000100 0
      (withChannel 1 { watched 5 (.qualifying false 2000 2005) with arm := some ⟨8, 7⟩ } true { State.reset with
        timebase := { State.reset.timebase with syncEnable := true, syncVal := 1000000 } }))
    s.timebase.running = true ∧ s.timebase.syncEnable = true ∧ s.listed 4 = true ∧ s.listed 5 = false
      ∧ (s.channel 1).filter = .qualifying false 2000 2005 ∧ (s.channel 0).filter = .stable false
      ∧ (⟨4, false⟩ : Entry) ∈ s.plist ∧ State.reset.timebase.syncEnable = false ∧ s.dispatcher = .idle
      ∧ ({ s with dispatcher := (firing 1).dispatcher } : State).dispatcher
        = .firing copy3 (.place ⟨.done, none⟩) := by decide

/-- The source bytes 0, 1 and 2, in each of the Clock Unit's three conditions. -/
theorem test_witness_SwitchClockTable :
    (∀ b : Byte, TakesCommand (commanding (arg0 b) State.reset))
      ∧ argNow (commanding (arg0 2) State.reset) 0 ≠ 0 ∧ argNow (commanding (arg0 2) State.reset) 0 ≠ 1
      ∧ argNow (commanding (arg0 0) State.reset) 0 = 0 ∧ argNow (commanding (arg0 1) State.reset) 0 = 1
      ∧ State.reset.clock.switching = .none ∧ State.reset.clock.source = .int
      ∧ (∀ c : Clock, TakesCommand (commanding (arg0 0) { State.reset with clock := c })
        ∧ (commanding (arg0 0) { State.reset with clock := c }).clock = c) := by
  refine ⟨fun _ => commanding_takes _ rfl, by decide, by decide, by decide, by decide, rfl, rfl, fun _ => ?_⟩
  exact ⟨commanding_takes _ rfl, rfl⟩

/-- The counts 0, 62 and 63, and the other two states of the monitor. -/
theorem test_witness_RefclkMonitor :
    State.reset.clock.monitor = .idle ∧ State.reset.clock.switching = .none
      ∧ ∀ c : Clock, ({ State.reset with clock := c } : State).clock = c := ⟨rfl, rfl, fun _ => rfl⟩

/-- The line bytes 15 and 16, the lengths 0, 1, 32 and 33, and the buffers in their three conditions. -/
theorem test_witness_LineCommands :
    let s := fun (l n : Byte) => commanding #v[l, 0, 0, 0, 0, n, 0, 0] State.reset
    (∀ l n, TakesCommand (s l n)) ∧ 16 ≤ (argNow (s 16 1) 0).toNat ∧ (argNow (s 15 1) 0).toNat = (15 : LineId).val
      ∧ argNow (s 15 0) 5 = 0 ∧ (argNow (s 15 1) 5).toNat = 1 ∧ (argNow (s 15 32) 5).toNat = 32
      ∧ 33 ≤ (argNow (s 15 33) 5).toNat ∧ State.reset.lineUnit.locked = false
      ∧ ((s 15 1).line 15).next = none ∧ ((s 15 1).line 15).current.count = 0 ∧ ((s 15 1).line 15).mode ≠ .tripped
      ∧ (∀ r : Line, TakesCommand (commanding (arg0 15) (withLine 15 r State.reset))
        ∧ (withLine 15 r State.reset).line 15 = r) := by
  refine ⟨fun _ _ => commanding_takes _ rfl, by decide, by decide, by decide, by decide, by decide, by decide, rfl,
    by decide, by decide, by decide, fun r => ⟨commanding_takes _ rfl, ?_⟩⟩
  simp [withLine, State.line, State.setLine, State.withLineUnit]

theorem test_witness_SafeLines :
    TakesCommand (commanding (arg0 0) State.reset)
      ∧ (working (.safeLines 15) State.reset).cmd.inHand = some (.safeLines 15)
      ∧ (working (.safeLines 0) State.reset).cmd.inHand = some (.safeLines 0)
      ∧ ((withLine 15 (normalLine .active 0) State.reset).line 15).mode = .normal
      ∧ (State.reset.line 15).mode ≠ .normal := by
  refine ⟨commanding_takes _ rfl, ?_⟩; decide

/-- Lines that meet each row of R58: disabled and enabled, HOLDN high and low, guarded at and above the new limit. -/
theorem test_witness_LineConfigurationCommits :
    let s := fun r : Line => writing 0x43 (withLine 15 r { State.reset with
      window := { State.reset.window with
        lineSel := 15, hold := { State.reset.window.hold with lineConfig := 0x0501 } } })
    let new := lineConfigOf (putByte (0x0501#24) 2 0)
    (∀ r, WritesAt (s r) 0x43 ∧ (15 : LineId).val = (s r).window.lineSel.toNat
        ∧ new = lineConfigOf (putByte (s r).window.hold.lineConfig 2 0) ∧ (s r).line 15 = r)
      ∧ new.enabled = true ∧ new.guardLimit = 5 ∧ new.safe = .inactive ∧ Line.atReset.config.enabled = false
      ∧ (normalLine .active 40).config.enabled = true ∧ (normalLine .active 40).config.guardLimit ≠ new.guardLimit
      ∧ (new.guardLimit.toNat ≤ ({ normalLine .active 40 with guardCount := 5 } : Line).guardCount.toNat)
      ∧ (({ normalLine .active 40 with guardCount := 4 } : Line).guardCount.toNat < new.guardLimit.toNat)
      ∧ (lineConfigOf (putByte (0x0500#24) 2 0)).enabled = false
      ∧ (lineConfigOf (putByte (0x0511#24) 2 0)).safe ≠ (normalLine .active 40).config.safe := by
  refine ⟨fun r => ⟨⟨rfl, rfl⟩, rfl, rfl, ?_⟩, by decide⟩
  simp [writing, withLine, State.line, State.setLine, State.withLineUnit]

/-- A guarded line one below its limit and one at it, and lines that are not guarded; posts of an earlier guard tick still
to come, and none. -/
theorem test_witness_GuardTickOnEveryLine :
    let s := withLine 6 { normalLine .active 40 with guardCount := 39 }
      (withLine 7 { normalLine .active 40 with guardCount := 38 } (withLine 8 (normalLine .inactive 40) State.reset))
    (s.line 6).config.guardLimit.toNat = min ((s.line 6).guardCount.toNat + 1) 65535
      ∧ (s.line 7).config.guardLimit.toNat ≠ min ((s.line 7).guardCount.toNat + 1) 65535
      ∧ (s.line 6).mode = .normal ∧ (s.line 6).driven = true ∧ (s.line 6).level = .active
      ∧ (s.line 8).level = .inactive ∧ (s.line 9).mode ≠ .normal ∧ s.lineUnit.trips = [] ∧ s.pauses = []
      ∧ (paused 0 s).pauses.head? = some 0
      ∧ ({ s with lineUnit := { s.lineUnit with trips := [(6, 7), (2, 7)] } } : State).lineUnit.trips ≠ [] := by decide

theorem test_witness_PulseReleaseTaken :
    let s := fun t : Tick => running t (withLine 2 { normalLine .active 0 with pulse := some ⟨3, 11200⟩ } State.reset)
    ((s 11200).line 2).pulse = some ⟨3, 11200⟩ ∧ (s 11200).timebase.running = true
      ∧ signedDistance 11200 (s 11200).now ≤ 0 ∧ 0 < signedDistance 11200 (s 11199).now
      ∧ (State.reset.line 2).pulse = none := by decide

theorem test_witness_HoldnChanges :
    let low := { State.reset with pins := { State.reset.pins with holdnLow := true } }
    State.reset.pins.holdnLow = false ∧ low.pins.holdnLow = true
      ∧ ((withLine 1 (normalLine .active 0) State.reset).line 1).mode = .normal
      ∧ ((withLine 1 { normalLine .inactive 0 with mode := .tripped } State.reset).line 1).mode = .tripped
      ∧ ((withLine 1 { normalLine .inactive 0 with mode := .forced .normal } low).line 1).mode = .forced .normal
      ∧ ((withLine 1 { normalLine .inactive 0 with mode := .forced .tripped } low).line 1).mode = .forced .tripped
      ∧ (low.line 1).mode = .off := by decide

/-- A line in each mode of the pulse, and the pins L0 to L15 in each row of R56's table. -/
theorem test_witness_ActionsOnALine :
    let l := fun (p : Polarity) (d : Drive) (x : Level) => { normalLine x 0 with config := ⟨true, p, d, .inactive, 0⟩ }
    Line.atReset.mode ≠ .normal ∧ (normalLine .active 0).mode = .normal ∧ (normalLine .active 0).pulse = none
      ∧ ({ normalLine .active 0 with pulse := some ⟨10, 103000⟩ } : Line).pulse = some ⟨10, 103000⟩
      ∧ (10 : SlotId) ≠ 11 ∧ Line.atReset.driven = false
      ∧ (∀ p d x, (l p d x).driven = true ∧ (l p d x).config.polarity = p ∧ (l p d x).config.drive = d
        ∧ (l p d x).level = x)
      ∧ (l .activeLow .openDrain .active).pin = .low ∧ (l .activeHigh .openDrain .active).pin = .released := by
  refine ⟨by decide, by decide, by decide, by decide, by decide, by decide, fun _ _ _ => ⟨rfl, rfl, rfl, rfl⟩, ?_⟩
  decide

theorem test_witness_ShiftTakesAPattern :
    (normalLine .active 0).mode = .normal ∧ (normalLine .active 0).current.count = 0
      ∧ ({ normalLine .active 0 with current := ⟨5, 1⟩ } : Line).current.count = 1
      ∧ ({ normalLine .active 0 with current := ⟨5, 32⟩ } : Line).current.count ≠ 0
      ∧ ({ normalLine .active 0 with current := ⟨5, 1⟩, next := some ⟨1, 1⟩ } : Line).next = some ⟨1, 1⟩ := by decide

/-- The world lets nothing in. -/
theorem runs_whole {s : State} (h : s.pauses = []) (k : Nat) : RunsWhole s k := fun n hn => by simp [h] at hn

/-- The world lets nothing in before the `n` further stages there are. -/
theorem runs_whole_to (n : Nat) (s : State) : RunsWhole (paused n s) n := fun _ h => (Option.some.inj h).le

/-- A due head and none; fires that nothing falls into, and others let in behind the taking, behind a further stage, and
before the last stage, which ends the fire. -/
theorem test_witness_FireTakesTheDueHead :
    (DueHead fire3 ⟨3, false⟩ [] ∧ RunsWhole fire3 5)
      ∧ (DueHead (paused 5 fire3) ⟨3, false⟩ [] ∧ RunsWhole (paused 5 fire3) 5)
      ∧ (DueHead (paused 0 fire3) ⟨3, false⟩ [] ∧ (paused 0 fire3).pauses = 0 :: [])
      ∧ ¬ DueHead (running 10999 fire3) ⟨3, false⟩ [] ∧ (running 10999 fire3).plist = [⟨3, false⟩]
      ∧ (fire3.slot 3).desc.line ≠ some 0 ∧ (fire3.slot 3).desc.chain ≠ some 0
      ∧ ((firing 1).dispatcher ≠ .idle ∧ (firing 1).pauses = [])
      ∧ ((paused 2 (firing 1)).pauses = (1 + 1) :: []
        ∧ exec .fire { paused 2 (firing 1) with pauses := [0, 1] }
            = .next (after .fire { firing 1 with pauses := [0, 1] })
        ∧ (after .fire { firing 1 with pauses := [0, 1] }).dispatcher ≠ .idle)
      ∧ (after .fire { firing 4 with pauses := [0, 1] }).dispatcher = .idle := by
  refine ⟨⟨?_, runs_whole rfl 5⟩, ⟨?_, runs_whole_to 5 fire3⟩, ⟨?_, rfl⟩, ?_, by decide, by decide, by decide, by decide,
    ⟨rfl, rfl, by decide⟩, by decide⟩ <;> unfold DueHead <;> decide

/-- The slot 31 of 2.10, which skips two; its first fire is dropped. -/
def fire31 : State :=
  running 5250 (withPending 31 { Descriptor.zero with
    action := .toggle, period := 100, width := 1, late := .drop, tolerance := 10, notify := .each
    chain := some 4, chainOffset := 1 } 5000 0 (withLine 0 (normalLine .inactive 0) State.reset))

/-- A one-shot NOTIFY slot that names itself, due at T. -/
def fireSelf (autoRelease : Bool) : State :=
  running 700 (withPending 5 { Descriptor.zero with
    action := .notify, line := none, width := 1, notify := .last, chain := some 5, chainOffset := 7
    autoRelease := autoRelease } 700 0 State.reset)

/-- A periodic slot that goes on, one whose skips are two, and a last occurrence, as whole fires and at the stage alone. -/
theorem test_witness_FirePlaces :
    let last : State := running 11000 (withPending 3 valve 11000 1 State.reset)
    let p := paused 0 (firing 1)
    let q := paused 0 (after .fire (paused 1 last))
    let c := last.fireCopy ⟨3, false⟩
    (DueHead fire3 ⟨3, false⟩ [] ∧ ListMatchesSlots fire3 ∧ Skips fire3 ⟨3, false⟩ 0
        ∧ ¬ Completes (fire3.slot 3) 0)
      ∧ (DueHead fire31 ⟨31, false⟩ [] ∧ ListMatchesSlots fire31 ∧ Skips fire31 ⟨31, false⟩ 2
        ∧ ¬ Completes (fire31.slot 31) 2 ∧ Dropped fire31 ⟨31, false⟩)
      ∧ (DueHead last ⟨3, false⟩ [] ∧ ListMatchesSlots last ∧ Skips last ⟨3, false⟩ 0
        ∧ Completes (last.slot 3) 0 ∧ (last.slot 3).desc.chain = none)
      ∧ (RunsWhole fire3 5 ∧ RunsWhole fire31 5 ∧ RunsWhole last 5)
      ∧ (p.dispatcher = .firing copy3 (.place ⟨.done, none⟩) ∧ p.pauses = 0 :: [] ∧ ListMatchesSlots p
        ∧ (p.slot 3).desc = copy3.desc ∧ SkipCount { p.slot 3 with due := 11000 } 11000 0
        ∧ ¬ Completes { p.slot 3 with due := 11000 } 0)
      ∧ (q.dispatcher = .firing c (.place ⟨.blocked, none⟩) ∧ ListMatchesSlots q ∧ (q.slot 3).desc = c.desc
        ∧ SkipCount { q.slot 3 with due := 11000 } 11000 0 ∧ Completes { q.slot 3 with due := 11000 } 0) := by
  refine ⟨?_, ?_, ?_, ⟨runs_whole rfl 5, runs_whole rfl 5, runs_whole rfl 5⟩, ?_, ?_⟩
  all_goals unfold ListMatchesSlots
  · unfold DueHead Skips SkipCount Completes; decide
  · unfold DueHead Skips SkipCount Completes Dropped; decide
  · unfold DueHead Skips SkipCount Completes; decide
  · unfold SkipCount Completes; decide
  · unfold SkipCount Completes; decide

/-- An action on a line, a dropped occurrence and a NOTIFY slot, as whole fires and at the stage alone. -/
theorem test_witness_FireApplies :
    (DueHead fire3 ⟨3, false⟩ [] ∧ ¬ Dropped fire3 ⟨3, false⟩ ∧ (fire3.slot 3).desc.action ≠ .notify
      ∧ (fire3.slot 3).desc.line = some 2 ∧ DueHead fire31 ⟨31, false⟩ [] ∧ Dropped fire31 ⟨31, false⟩
      ∧ DueHead (fireSelf false) ⟨5, false⟩ [] ∧ ((fireSelf false).slot 5).desc.action = .notify)
      ∧ (RunsWhole fire3 5 ∧ RunsWhole fire31 5 ∧ RunsWhole (fireSelf false) 5)
      ∧ ((firing 0).dispatcher = .firing copy3 .apply ∧ copy3.desc.late ≠ .drop ∧ copy3.desc.action ≠ .notify
        ∧ copy3.desc.line = some 2 ∧ (paused 0 (firing 0)).pauses = 0 :: [])
      ∧ ((after .fire (paused 0 fire31)).dispatcher = .firing (fire31.fireCopy ⟨31, false⟩) .apply
        ∧ (fire31.fireCopy ⟨31, false⟩).desc.late = .drop
        ∧ (fire31.fireCopy ⟨31, false⟩).desc.tolerance.toNat < (fire31.fireCopy ⟨31, false⟩).lam)
      ∧ (after .fire (paused 0 (fireSelf false))).dispatcher = .firing ((fireSelf false).fireCopy ⟨5, false⟩) .apply := by
  refine ⟨?_, ⟨runs_whole rfl 5, runs_whole rfl 5, runs_whole rfl 5⟩, by decide, by decide, by decide⟩
  unfold DueHead Dropped; decide

/-- A LOADED target, a target in another state, a dropped occurrence, and a slot that names itself, as whole fires and at
the stage alone. -/
theorem test_witness_FireChains :
    (DueHead fire3 ⟨3, false⟩ [] ∧ ListMatchesSlots fire3 ∧ Skips fire3 ⟨3, false⟩ 0
        ∧ (fire3.slot 3).desc.chain = some 7 ∧ ¬ Dropped fire3 ⟨3, false⟩ ∧ ¬ TargetLoaded fire3 ⟨3, false⟩ 7 0)
      ∧ TargetLoaded (withSlot 7 (loadedSlot valve) fire3) ⟨3, false⟩ 7 0
      ∧ (DueHead fire31 ⟨31, false⟩ [] ∧ (fire31.slot 31).desc.chain = some 4 ∧ Dropped fire31 ⟨31, false⟩)
      ∧ (∀ b : Bool, DueHead (fireSelf b) ⟨5, false⟩ [] ∧ ListMatchesSlots (fireSelf b)
        ∧ Skips (fireSelf b) ⟨5, false⟩ 0 ∧ ((fireSelf b).slot 5).desc.chain = some 5
        ∧ ¬ Dropped (fireSelf b) ⟨5, false⟩ ∧ Completes ((fireSelf b).slot 5) 0
        ∧ ((fireSelf b).slot 5).desc.autoRelease = b)
      ∧ (RunsWhole fire3 5 ∧ RunsWhole fire31 5 ∧ ∀ b : Bool, RunsWhole (fireSelf b) 5)
      ∧ ((firing 2).dispatcher = .firing copy3 (.chain ⟨.done, none⟩ false 0) ∧ (paused 0 (firing 2)).pauses = 0 :: []
        ∧ ListMatchesSlots (paused 0 (firing 2)) ∧ copy3.desc.chain = some 7
        ∧ ((firing 2).slot 7).state ≠ .loaded
        ∧ ListMatchesSlots (withSlot 7 (loadedSlot valve) (firing 2))
        ∧ ((withSlot 7 (loadedSlot valve) (firing 2)).slot 7).state = .loaded)
      ∧ (after .fire (paused 2 fire31)).dispatcher
        = .firing (fire31.fireCopy ⟨31, false⟩) (.chain ⟨.dropped, none⟩ false 2) := by
  unfold DueHead ListMatchesSlots Skips SkipCount Completes Dropped TargetLoaded Completes
  refine ⟨⟨?_, ?_, ?_, ?_⟩, ?_, ⟨?_, ?_⟩, ?_, ⟨runs_whole rfl 5, runs_whole rfl 5, fun _ => runs_whole rfl 5⟩, ?_, ?_⟩
  all_goals decide

/-- Notify EACH on an applied and on a dropped fire, notify LAST on a completing one, and a SHIFT that takes the last
bit; the notify stage alone in each of these, and the CHAIN_MISS behind it. -/
theorem test_witness_FireReports :
    let shift := running 9 (withPending 6 { Descriptor.zero with action := .shift, width := 1 } 9 0
      (withLine 0 { normalLine .inactive 0 with current := ⟨1, 1⟩ } State.reset))
    (DueHead fire3 ⟨3, false⟩ [] ∧ ListMatchesSlots fire3 ∧ Skips fire3 ⟨3, false⟩ 0
        ∧ (fire3.slot 3).desc.notify = .each ∧ ¬ TargetLoaded fire3 ⟨3, false⟩ 7 0)
      ∧ (DueHead fire31 ⟨31, false⟩ [] ∧ Skips fire31 ⟨31, false⟩ 2 ∧ (fire31.slot 31).desc.notify = .each)
      ∧ (((fireSelf false).slot 5).desc.notify = .last ∧ TargetLoaded (fireSelf false) ⟨5, false⟩ 5 0)
      ∧ (DueHead shift ⟨6, false⟩ [] ∧ ListMatchesSlots shift ∧ Skips shift ⟨6, false⟩ 0
        ∧ (shift.slot 6).desc.notify = .none ∧ (shift.slot 6).desc.action = .shift ∧ (shift.slot 6).desc.chain = none
        ∧ (shift.line 0).mode = .normal ∧ (shift.line 0).current.count = 1 ∧ (shift.line 0).next = none)
      ∧ (RunsWhole fire3 5 ∧ RunsWhole fire31 5 ∧ RunsWhole (fireSelf false) 5 ∧ RunsWhole shift 5)
      ∧ ((firing 3).dispatcher = .firing copy3 (.notify ⟨.done, none⟩ false 0 (some 7))
        ∧ (paused 0 (firing 3)).pauses = 0 :: [] ∧ copy3.desc.notify = .each)
      ∧ (after .fire (paused 3 (fireSelf false))).dispatcher
        = .firing ((fireSelf false).fireCopy ⟨5, false⟩) (.notify ⟨.done, none⟩ true 0 none)
      ∧ (after .fire (paused 3 shift)).dispatcher
        = .firing (shift.fireCopy ⟨6, false⟩) (.notify ⟨.done, none⟩ true 0 none)
      ∧ (firing 4).dispatcher = .firing copy3 (.miss 7) := by
  unfold DueHead ListMatchesSlots Skips SkipCount TargetLoaded Completes
  refine ⟨⟨?_, ?_, ?_, ?_⟩, ⟨?_, ?_⟩, ?_, ⟨?_, ?_, ?_, ?_⟩,
    ⟨runs_whole rfl 5, runs_whole rfl 5, runs_whole rfl 5, runs_whole rfl 5⟩, ?_, ?_, ?_, ?_⟩
  all_goals decide

/-- Channel `k` of `s` where a trigger arm is still to come. -/
def owing (k : ChannelId) (s : State) : State := s.setChannel k { s.channel k with arm := some ⟨9, 77⟩ }

/-- F above 0 and at 0, a return, an input not followed; a trigger arm of the last edge still to come; a trigger slot that
no fire has claimed, and one that a fire has claimed but whose arm waits; and others let in behind the record. -/
theorem test_witness_CaptureInputChanges :
    let s := fun (f : Byte) (x : Filter) => running 2000 (withChannel 1 (watched f x) false State.reset)
    let fired := paused 0 (withChannel 1 { watched 0 (.stable false) with trigger := some 3 } false (firing 1))
    (s 5 (.stable false)).timebase.running = true ∧ ((s 5 (.stable false)).channel 1).edge ≠ .off
      ∧ (s 5 (.stable false)).inputLevel 1 = false
      ∧ ((s 5 (.stable false)).channel 1).filter = .stable false ∧ ((s 1 (.stable false)).channel 1).filterLength ≠ 0
      ∧ ((s 0 (.stable false)).channel 1).filterLength = 0 ∧ ListMatchesSlots (s 0 (.stable false))
      ∧ ((s 5 (.qualifying true 1998 2003)).channel 1).filter = .qualifying true 1998 2003
      ∧ (State.reset.channel 1).edge = .off
      ∧ ((s 0 (.stable false)).channel 1).arm = none ∧ TriggerFree (s 0 (.stable false)) 1
      ∧ TriggerFree fired 1 ∧ (fired.channel 1).trigger = fired.firedSlot
      ∧ ((owing 1 (s 0 (.stable false))).channel 1).arm ≠ none
      ∧ (∃ u, exec (.acceptance 1) (owing 1 (s 0 (.stable false))) = .next u)
      ∧ (s 0 (.stable false)).pauses.head? ≠ some 0
      ∧ exec (.captureInputChange 1) { s 0 (.stable false) with pauses := [0] }
          = .next (after (.captureInputChange 1) (paused 0 (s 0 (.stable false))))
      ∧ ((after (.captureInputChange 1) (paused 0 (s 0 (.stable false)))).channel 1).arm ≠ none := by
  refine ⟨by decide, by decide, by decide, by decide, by decide, by decide, ?_, by decide, by decide, by decide,
    fun _ _ _ h => (nomatch h), fun _ _ h => absurd rfl h, by decide, by decide, ⟨_, rfl⟩, by decide, rfl, by decide⟩
  unfold ListMatchesSlots; decide

theorem test_witness_AcceptanceHandles :
    let s := fun t : Tick => running t (withChannel 1 (watched 5 (.qualifying false 2000 2005)) true State.reset)
    let waits := owing 1 { withSlot 9 (armedSlot slot3 .pending 0 0 3) (s 2005) with
      dispatcher := .firing { copy3 with slot := 9 } .apply }
    ((s 2005).channel 1).filter = .qualifying false 2000 2005 ∧ (s 2005).timebase.running = true
      ∧ signedDistance 2005 (s 2005).now ≤ 0 ∧ 0 < signedDistance 2005 (s 2004).now ∧ ListMatchesSlots (s 2005)
      ∧ (State.reset.channel 1).filter = .stable false
      ∧ ((s 2005).channel 1).arm = none ∧ TriggerFree (s 2005) 1 ∧ (s 2005).pauses.head? ≠ some 0
      ∧ exec (.acceptance 1) { s 2005 with pauses := [0] } = .next (after (.acceptance 1) (paused 0 (s 2005)))
      ∧ ((after (.acceptance 1) (paused 0 (s 2005))).channel 1).arm ≠ none
      ∧ ((owing 1 (s 2005)).channel 1).arm = some ⟨9, 77⟩ ∧ ListMatchesSlots (owing 1 (s 2005))
      ∧ NotFired (owing 1 (s 2005)) 9
      ∧ (waits.channel 1).arm = some ⟨9, 77⟩ ∧ waits.firedSlot = some 9 ∧ ∃ u, FireEnded waits u := by
  refine ⟨by decide, by decide, by decide, by decide, ?_, by decide, by decide, fun _ _ _ h => (nomatch h), by decide,
    rfl, by decide, by decide, ?_, (fun h => nomatch h), by decide, by decide, fire_has_end (by decide)⟩ <;>
    unfold ListMatchesSlots <;> decide

/-- The five rows of R121's table: filter STABLE, edge OFF, F as before, F longer, and F already held; the last with a
trigger arm still to come, and with others let in behind its record. -/
theorem test_witness_ChannelConfigurationCommits :
    let s := fun (x : BitVec 48) (q : Filter) => writing 0x53 (running 2003 (withChannel 3 (watched 5 q) true
      { State.reset with window := { State.reset.window with
        capSel := 3, hold := { State.reset.window.hold with capConfig := x } } }))
    let held := s 0x010303 (.qualifying false 2000 2005)
    (∀ x q, WritesAt (s x q) 0x53) ∧ (3 : ChannelId).val = (s 0 (.stable true)).window.capSel.toNat
      ∧ ((s 0 (.stable true)).channel 3).filter = .stable true
      ∧ ((s 0 (.qualifying false 2000 2005)).channel 3).filter = .qualifying false 2000 2005
      ∧ ListMatchesSlots (s 0 (.qualifying false 2000 2005))
      ∧ edgeSelectOf ((putByte (0#48) 5 0).extractLsb' 0 2) = .off
      ∧ edgeSelectOf ((putByte (0x0503#48) 5 0).extractLsb' 0 2) = .both
      ∧ (putByte (0x0503#48) 5 0).extractLsb' 8 8 = 5#8
      ∧ 0 < signedDistance (2000 + (4#8).setWidth 32) 2003 ∧ signedDistance (2000 + (3#8).setWidth 32) 2003 ≤ 0
      ∧ (held.channel 3).arm = none ∧ (∀ c, TriggerFree { held with capture := c } 3)
      ∧ ((owing 3 held).channel 3).arm ≠ none ∧ (∃ u, exec (.acceptance 3) (owing 3 held) = .next u)
      ∧ held.pauses.head? ≠ some 0
      ∧ exec (.channelConfigurationCommit 0) { held with pauses := [0] }
          = .next (after (.channelConfigurationCommit 0) (paused 0 held))
      ∧ ((after (.channelConfigurationCommit 0) (paused 0 held)).channel 3).arm ≠ none := by
  refine ⟨fun _ _ => ⟨rfl, rfl⟩, by decide, by decide, by decide, ?_, by decide, by decide, by decide, by decide,
    by decide, by decide, fun _ _ _ _ h => (nomatch h), by decide, ⟨_, rfl⟩, by decide, rfl, by decide⟩
  unfold ListMatchesSlots; decide

/-- Pops of an empty and of a filled queue, the reads behind them at both ends of the two ports, and each record read. -/
theorem test_witness_PopsAndFlush :
    (∀ s : State, ReadsAt (reading 0x79 s) 0x79 ∧ ReadsAt (reading 0x6D s) 0x6D)
      ∧ State.reset.capture.fifo = [] ∧ State.reset.queue.entries = []
      ∧ (withEntries [⟨0, .clockFail⟩] State.reset).queue.entries = ⟨0, .clockFail⟩ :: []
      ∧ ({ State.reset with capture := { State.reset.capture with fifo := [⟨2, .fall, 9⟩] } } : State).capture.fifo
        = ⟨2, .fall, 9⟩ :: []
      ∧ TakesCommand (commanding (arg0 0) State.reset)
      ∧ (reading 0x6E State.reset).port.pointer.toNat = 0x6D + (1 : Fin 12).val
      ∧ (reading 0x78 State.reset).port.pointer.toNat = 0x6D + (11 : Fin 12).val
      ∧ (reading 0x7A State.reset).port.pointer.toNat = 0x79 + (1 : Fin 6).val
      ∧ (reading 0x7E State.reset).port.pointer.toNat = 0x79 + (5 : Fin 6).val
      ∧ ((notificationImage (some ⟨0x01020304, .fire ⟨31, some 9, 250, true, true, .dropped, 2⟩⟩)).toList
        = [0xDF, 0xC9, 2, 0, 4, 3, 2, 1, 250, 0, 0, 0])
      ∧ ((notificationImage (some ⟨1, .overflow 0x0102⟩)).toList = [0x0D, 2, 1, 0xFF, 1, 0, 0, 0, 0, 0, 0, 0])
      ∧ (captureImage ⟨some ⟨2, .fall, 9⟩, 15⟩).toList = [2, 0xF1, 9, 0, 0, 0] :=
  ⟨fun _ => ⟨⟨rfl, rfl⟩, ⟨rfl, rfl⟩⟩, rfl, rfl, rfl, rfl, commanding_takes _ rfl, rfl, rfl, rfl, rfl, by decide, by decide,
    by decide⟩

/-- Queues of 30, 31 and 32 entries, with and without an OVERFLOW entry last. -/
theorem test_witness_AppendRule :
    let f : Notification := ⟨1, .clockFail⟩
    let ov : Notification := ⟨2, .overflow 9⟩
    (List.replicate 30 f).length ≤ 30
      ∧ (31 ≤ (List.replicate 30 f ++ [ov]).length ∧ QueueSound (List.replicate 30 f ++ [ov]))
      ∧ (31 ≤ (List.replicate 31 f ++ [ov]).length ∧ QueueSound (List.replicate 31 f ++ [ov]))
      ∧ ((List.replicate 31 f).length = 31 ∧ (List.replicate 31 f).getLast? = some f ∧ f.isOverflow = false
        ∧ QueueSound (List.replicate 31 f))
      ∧ State.reset.queue.postMask.getLsbD (NotificationBody.mark).kindCode = false
      ∧ State.reset.queue.postMask.getLsbD (NotificationBody.clockFail).kindCode = true := by
  have h : ∀ q : List Notification, (∀ n, q[31]? = some n → n.isOverflow = true) ↔ (q[31]?.all (·.isOverflow)) = true := by
    intro q; cases q[31]? <;> simp
  simp only [QueueSound, h]; decide

theorem test_witness_IrqnFollows :
    WritesAt (writing 0x64 State.reset) 0x64 := ⟨rfl, rfl⟩

theorem test_witness_UnknownAndCollide :
    TakesCommand (commanding (arg0 0) State.reset) ∧ namesCommand 0x00 = false ∧ namesCommand 0xFF = false
      ∧ WritesAt (writing 0x0E (working (.safeSlots 3) State.reset)) 0x0E
      ∧ (writing 0x0E (working (.safeSlots 3) State.reset)).cmd.inHand = some (.safeSlots 3)
      ∧ Instr.arm.code = some 0x02 :=
  ⟨commanding_takes _ rfl, by decide, by decide, ⟨rfl, rfl⟩, rfl, rfl⟩

theorem test_witness_CompletionWritesResult :
    (working (.finished .full) State.reset).cmd.inHand = some (.finished .full)
      ∧ (working (.softReset .completion) State.reset).cmd.inHand = some (.softReset .completion) := ⟨rfl, rfl⟩

/-- A SOFT_RESET that nothing falls into and one that others fall into, with a switch pending and without, a NORMAL line
and another, a fire in progress, and a trigger arm still to come; every stage of it in hand. -/
theorem test_witness_SoftResetReturnsToRest :
    let f := commanding (arg0 0) (firing 0)
    let h := commanding (arg0 0) (running 5
      (withChannel 1 { watched 0 (.stable true) with arm := some ⟨8, 7⟩ } true State.reset))
    let q := commanding (arg0 0) (paused 0 (running 2003
      (withChannel 1 (watched 5 (.qualifying false 2000 2005)) true State.reset)))
    TakesCommand (commanding (arg0 0) State.reset) ∧ State.reset.clock.switching = .none
      ∧ ({ State.reset with clock := ⟨.int, .pendingExt 0, false, .confirming 3, some 0⟩ } : State).clock.switching
        = .pendingExt 0
      ∧ ((withLine 6 (normalLine .active 40) State.reset).line 6).mode = .normal
      ∧ (State.reset.line 6).mode ≠ .normal
      ∧ (RunsWhole (commanding (arg0 0) State.reset) 8 ∧ NoArms (commanding (arg0 0) State.reset)
        ∧ State.reset.dispatcher = .idle)
      ∧ (TakesCommand f ∧ RunsWhole f 8 ∧ NoArms f ∧ ∃ u, FireEnded f u)
      ∧ (TakesCommand h ∧ h.timebase.running = true ∧ (h.channel 1).arm ≠ none
        ∧ (∀ j : ChannelId, j < 1 → (h.channel j).arm = none) ∧ ∃ u, exec (.acceptance 1) h = .next u)
      ∧ (TakesCommand q ∧ NoArms q ∧ q.pauses = 0 :: [] ∧ (q.channel 1).filter = .qualifying false 2000 2005
        ∧ (q.channel 0).filter = .stable false)
      ∧ ((paused 8 State.reset).pauses = (7 + 1) :: []
        ∧ exec .softReset { commanding (arg0 0) (paused 8 State.reset) with pauses := [0, 7] }
            = .next (after .softReset { commanding (arg0 0) State.reset with pauses := [0, 7] }))
      ∧ (∀ stage : ResetStage, (working (.softReset stage) (paused 0 State.reset)).cmd.inHand = some (.softReset stage)
        ∧ (working (.softReset stage) (paused 0 State.reset)).pauses = 0 :: []
        ∧ ∃ m, exec .commandCompletion { working (.softReset stage) (paused 3 State.reset) with pauses := [0, 2] }
            = .next m)
      ∧ ∃ u, FireEnded (working (.softReset .endOfFire) (firing 0)) u := by
  refine ⟨commanding_takes _ rfl, rfl, rfl, by decide, by decide, ⟨runs_whole rfl 8, ?_, rfl⟩,
    ⟨commanding_takes _ (by decide), runs_whole (by decide) 8, ?_, fire_has_end (by decide)⟩,
    ⟨commanding_takes _ rfl, by decide, by decide, by decide, _, rfl⟩,
    ⟨commanding_takes _ rfl, ?_, rfl, by decide, by decide⟩, ⟨rfl, rfl⟩, fun _ => ⟨rfl, rfl, _, rfl⟩,
    fire_has_end (by decide)⟩ <;> unfold NoArms <;> decide

theorem test_witness_FramesBeginAndEnd :
    State.reset.pins.csnLow = false ∧ State.reset.pins.rstnLow = false
      ∧ (after .fullReset State.reset).pins.rstnLow = true ∧ (after .frameStart State.reset).pins.csnLow = true
      ∧ (after .frameStart State.reset).port.frame = .address ∧ (0x7F#8).toNat < 128 ∧ 128 ≤ (0x80#8).toNat := by
  decide

/-- Any address of the map can be the pointer of a write frame. -/
theorem test_witness_RegisterWrites (a : Addr) :
    (writing a State.reset).port.frame = .write ∧ (writing a State.reset).port.pointer.toNat = a.toNat := ⟨rfl, rfl⟩

/-- Any address of the map can be the pointer of a read frame; a chain target NONE and another, each readback state, an
empty list and a filled one, 0x68 read before 0x6C and not. -/
theorem test_witness_StatusAndLatchReads (a : Addr) :
    ReadsAt (reading 0x02 State.reset) 0x02 ∧ (reading a State.reset).port.frame = .read
      ∧ (reading a State.reset).port.pointer.toNat = a.toNat
      ∧ (∀ n < 0x80, n ∉ [0x02, 0x44, 0x4E, 0x54, 0x59, 0x68, 0x6D, 0x79] →
        (reading (BitVec.ofNat 7 n) State.reset).port.pointer.toNat = n)
      ∧ (stagingOf valve).chain = 0x7F ∧ (stagingOf slot3).chain ≠ 0x7F
      ∧ State.reset.plist = [] ∧ halfRange.plist ≠ []
      ∧ (reading 0x6C State.reset).port.nextDueRead = false
      ∧ ({ reading 0x6C State.reset with port := ⟨.read, 0x6C, none, true⟩ } : State).port.nextDueRead = true :=
  ⟨⟨rfl, rfl⟩, rfl, rfl, by decide, by decide, by decide, rfl, by decide, rfl, rfl⟩

theorem test_witness_FullResetAndItsEnd :
    State.reset.pins.rstnLow = false ∧ (after .fullReset State.reset).pins.rstnLow = true := by decide

/-- From reset no byte completes, no frame waits and no command is in hand. -/
theorem test_witness_RowsOutOfPlace :
    (∀ a, ¬ WritesAt State.reset a ∧ ¬ ReadsAt State.reset a) ∧ State.reset.port.frame = .idle
      ∧ State.reset.cmd.inHand = none :=
  ⟨fun _ => ⟨fun h => (nomatch h.1), fun h => (nomatch h.1)⟩, rfl, rfl⟩

theorem test_witness_StagedDescriptorReadsBack : DescriptorSound valve ∧ DescriptorSound slot3 := by
  unfold DescriptorSound; decide

/-- A state in which much goes on, with a tick waiting: the premises of the statements about every step. -/
def busyState (next : Instr) : State :=
  { fire3 with pending := [next] }

/-- A state whose Dispatcher is IDLE, with no re-sort and no SOFT_RESET in hand, meets what R34, R38 and R150 ask of it. -/
theorem fireSound_idle {s : State} (hd : s.dispatcher = .idle) (hw : ∀ stage, s.cmd.inHand ≠ some (.softReset stage)) :
    FireSound s :=
  ⟨fun c stage h => by simp [hd] at h, fun _ _ _ => hd, fun stage h => absurd h (hw stage),
    fun stage h => absurd h (hw stage)⟩

/-- A fire between two of its stages, with the rest of it waiting. -/
def busyFire : State := { firing 1 with pending := [.fire] }

theorem busyFire_sound : FireSound busyFire := by
  have hd : busyFire.dispatcher = .firing copy3 (.place ⟨.done, none⟩) := by decide
  have hn : busyFire.cmd.inHand = none := by decide
  refine ⟨fun c stage h _ => ?_, fun _ _ h => ?_, fun _ h => ?_, fun _ h => ?_⟩
  · rw [hd] at h; injection h with h _; subst h; decide
  · simp [hn] at h
  · simp [hn] at h
  · simp [hn] at h

theorem test_witness_EveryStepKeepsTheList :
    (ListMatchesSlots (busyState .tick) ∧ ListInOrder (busyState .tick) ∧ FireSound (busyState .tick)
        ∧ TimebaseSound (busyState .tick) ∧ step (busyState .fire) = .next (after .fire fire3))
      ∧ ListMatchesSlots busyFire ∧ ListInOrder busyFire ∧ FireSound busyFire ∧ busyFire.unplaced = some 3 := by
  refine ⟨⟨?_, ?_, fireSound_idle rfl (fun _ h => nomatch h), ⟨rfl, fun _ h => (nomatch h), fun _ _ h => (nomatch h),
    fun _ h => (nomatch h)⟩, rfl⟩, ?_, ?_, busyFire_sound, by decide⟩
  · unfold ListMatchesSlots; decide
  · unfold ListInOrder; decide
  · unfold ListMatchesSlots; decide
  · unfold ListInOrder; decide

theorem test_witness_EveryStepKeepsTheSlots :
    ListMatchesSlots (busyState .fire) ∧ FireSound (busyState .fire) ∧ SlotsSound (busyState .fire) := by
  refine ⟨?_, fireSound_idle rfl (fun _ h => nomatch h), ?_⟩
  · unfold ListMatchesSlots; decide
  · unfold SlotsSound SlotSound DescriptorSound Slot.armed
    intro i
    refine ⟨?_, ?_, ?_, ?_, ?_⟩ <;> revert i <;> decide

theorem test_witness_EveryStepKeepsSuspension :
    let s := { working (.suspendWalk 2 40) (suspendedGroup 2 (withPending 40 tray 260000 0 State.reset)) with
      pending := [.suspendGroupVisit] }
    FireSound s ∧ SuspensionSound s := by
  refine ⟨fireSound_idle rfl (fun _ h => nomatch h), fun i hi _ => ?_, fun i hi _ => ?_, fun g n h => ?_,
    fun g n h => ?_⟩
  · have h40 : i = 40 := by revert i; decide
    subst h40; exact ⟨40, rfl, by decide⟩
  · exact absurd hi (by revert i; decide)
  · injection h with h; injection h with h1 h2; subst h1; decide
  · injection h with h; nomatch h

theorem test_witness_EveryStepKeepsTheLines :
    LinesSound { withLine 6 { normalLine .active 40 with pulse := some ⟨1, 9⟩, guardCount := 39 } State.reset with
      pending := [.guardTick] } := by
  intro l
  refine ⟨?_, ?_, ?_, ?_, ?_, ?_, ?_, ?_, ?_, ?_, ?_, ?_, ?_⟩ <;>
    first
    | (revert l; decide)
    | (intro h; cases h <;> revert l <;> decide)
    | (intro hp h; revert hp; cases h <;> revert l <;> decide)

theorem test_witness_EveryStepKeepsTheClocks :
    TimebaseSound { running 5 State.reset with pending := [.tick] }
      ∧ ClockSound ⟨.int, .pendingExt 0, true, .confirming 63, some 0⟩ := by
  refine ⟨⟨rfl, ?_, ?_, ?_⟩, ?_, ?_, ?_, ?_, ?_⟩ <;> simp [running, State.reset, State.fullResetImage,
    Timebase.atReset, CommandUnit.atReset, SwitchState.isPending]

/-- With the channels and the inputs as after reset and the Timebase STOPPED, every channel is sound. -/
theorem channelsSound_rest (s : State) (hc : s.capture.channels = State.reset.capture.channels)
    (hp : s.pins.k = State.reset.pins.k) (hr : s.timebase.running = false) : ChannelsSound s := by
  have hch : ∀ k, s.channel k = ⟨.off, 0, none, 0, .stable false, none⟩ := by
    intro k; show s.capture.channels[k] = _; rw [hc]; revert k; decide
  have hin : ∀ k, s.inputLevel k = false := by intro k; show s.pins.k[k] = _; rw [hp]; revert k; decide
  intro k; rw [hch, hin, hr]
  exact ⟨fun _ => rfl, fun l h => by injection h with h; exact h.symm, fun _ _ _ h => (nomatch h), fun _ => rfl⟩

theorem test_witness_EveryStepKeepsTheCaptures :
    ChannelsSound { State.reset with pending := [.captureInputChange 0] }
      ∧ FifoSound { State.reset with pending := [.capturePop] } :=
  ⟨channelsSound_rest _ rfl rfl rfl, by unfold FifoSound; decide⟩

theorem test_witness_EveryStepKeepsQueueAndPort :
    QueueSound (withEntries [⟨1, .overflow 3⟩, ⟨2, .clockFail⟩] State.reset).queue.entries
      ∧ PortSound { reading 0x02 State.reset with pending := [.frameEnd] } := by
  refine ⟨⟨by decide, fun n h => by simp [withEntries] at h, by decide⟩, ?_⟩
  unfold PortSound; decide

theorem test_witness_LockKeepsConfiguration :
    let s := { writing 0x43 State.reset with
      lineUnit := { State.reset.lineUnit with locked := true }, pending := [.lineConfigurationCommit 1] }
    s.lineUnit.locked = true ∧ s.pending.head? ≠ some .fullReset := by decide

/-- Each field of the Timebase changes in some step. -/
theorem test_witness_TimebaseChangesOnlyAsStated :
    let s := running 4294967295 State.reset
    ((after .tick s).timebase.t ≠ s.timebase.t ∧ (after .tick s).timebase.e ≠ s.timebase.e)
      ∧ (after .start (commanding (arg0 4) State.reset)).timebase.prescaler ≠ State.reset.timebase.prescaler
      ∧ (after .start (commanding (arg0 4) State.reset)).timebase.running ≠ State.reset.timebase.running
      ∧ (after (.registerWrite 8) (writing 0x63 s)).timebase.marker ≠ s.timebase.marker
      ∧ (after (.registerWrite 1) (writing 0x64 s)).timebase.syncEnable ≠ s.timebase.syncEnable
      ∧ (after (.registerWrite 1) (writing 0x62 s)).timebase.syncVal ≠ s.timebase.syncVal
      ∧ (after .start (commanding (arg0 4) State.reset)).timebase.phase ≠ State.reset.timebase.phase := by decide

/-- The edge that confirms a switch restarts the prescaler phase in progress (R111). -/
theorem test_witness_phase_handover :
    let s := { running 9 State.reset with
      timebase := { (running 9 State.reset).timebase with phase := some 5 }
      clock := ⟨.int, .pendingExt 0, false, .confirming 63, some 0⟩ }
    (after .refclkEdge s).timebase.phase = some 0 ∧ (after .refclkEdge s).clock.source = .ext := by decide

/-- A due head waits in the list while the re-sort is in flight. -/
theorem test_witness_NoInsertionDuringResort :
    let s := { working (.resort 9 0) (stopped 500 (withPending 3 tray 100 0 State.reset)) with pending := [.fire] }
    s.cmd.inHand = some (.resort 9 0) ∧ TimebaseSound s ∧ FireSound s ∧ ChannelsSound s
      ∧ s.pending.head? ≠ some .resortComplete ∧ s.pending.head? ≠ some .fullReset ∧ s.plist = [⟨3, false⟩] := by
  refine ⟨rfl, ⟨rfl, fun _ h => (nomatch h), fun _ _ _ => rfl, fun _ h => (nomatch h)⟩,
    fireSound_idle rfl (fun _ h => nomatch h), channelsSound_rest _ rfl rfl rfl, by decide, by decide, by decide⟩

end Sys2Proof.Tests
end

section
/-! Slot commands (01): how the fields of a descriptor are encoded, and the checks and the effect of LOAD. -/

namespace Sys2Proof.Machine

/-! ### The encodings of R161 and what reads them -/

/-- `actionOf` reads the action code. -/
theorem actionOf_eq_some_iff {x : BitVec 3} {a : Action} : actionOf x = some a ↔ actionCode a = x := by
  revert x; cases a <;> decide

/-- The codes 0 to 5 are the actions'. -/
theorem exists_actionCode {x : BitVec 3} : (∃ a, actionCode a = x) ↔ x.toNat ≤ 5 := by
  constructor
  · rintro ⟨a, rfl⟩; cases a <;> decide
  · intro h
    have hread : (actionOf x).isSome = true := by revert x; decide
    obtain ⟨a, ha⟩ := Option.isSome_iff_exists.1 hread
    exact ⟨a, actionOf_eq_some_iff.1 ha⟩

/-- The late policy read from a bit has that bit as its code. -/
@[simp] theorem latePolicyCode_latePolicyOf (x : BitVec 1) : latePolicyCode (latePolicyOf x) = x := by
  revert x; decide

/-- `notifyModeOf` reads the notify code. -/
theorem notifyModeOf_eq_some_iff {x : BitVec 2} {m : NotifyMode} : notifyModeOf x = some m ↔ notifyModeCode m = x := by
  revert x; cases m <;> decide

/-- The codes 0 to 2 are the notify modes'. -/
theorem exists_notifyModeCode {x : BitVec 2} : (∃ m, notifyModeCode m = x) ↔ x.toNat ≤ 2 := by
  constructor
  · rintro ⟨m, rfl⟩; cases m <;> decide
  · intro h
    have hread : (notifyModeOf x).isSome = true := by revert x; decide
    obtain ⟨m, hm⟩ := Option.isSome_iff_exists.1 hread
    exact ⟨m, notifyModeOf_eq_some_iff.1 hm⟩

/-- Only the absent line has the code NONE. -/
theorem lineCode5_eq_none_iff {l : Option LineId} : lineCode5 l = 0x1F ↔ l = none := by
  revert l; decide

/-- `stagedLineOf` reads the line code. -/
theorem stagedLineOf_eq_some_iff {x : BitVec 5} {l : Option LineId} : stagedLineOf x = some l ↔ lineCode5 l = x := by
  revert x l; decide

/-- The codes 0 to 15 and 0x1F are those of a line and of NONE. -/
theorem exists_lineCode5 {x : BitVec 5} : (∃ l, lineCode5 l = x) ↔ x.toNat ≤ 15 ∨ x = 0x1F := by
  revert x; decide

/-- The code of a slot is its number. -/
theorem toNat_chainCode_some (i : SlotId) : (chainCode (some i)).toNat = i.val := by
  have hi := i.isLt
  simp only [chainCode, BitVec.toNat_ofNat]
  omega

/-- Only the absent chain target has the code NONE. -/
theorem chainCode_eq_none_iff {c : Option SlotId} : chainCode c = 0x7F ↔ c = none := by
  revert c; decide

/-- `stagedChainOf` reads back what `chainCode` writes. -/
theorem stagedChainOf_chainCode (c : Option SlotId) : stagedChainOf (chainCode c) = some c := by
  cases c with
  | none => rfl
  | some i =>
    have hne : chainCode (some i) ≠ 0x7F := fun h => by cases chainCode_eq_none_iff.1 h
    have hcode := toNat_chainCode_some i
    have hlt : (chainCode (some i)).toNat < 64 := by omega
    rw [stagedChainOf, if_neg hne, dif_pos hlt]
    simp only [hcode]

/-- What `stagedChainOf` reads has the code read. -/
theorem chainCode_of_stagedChainOf {x : BitVec 7} {c : Option SlotId} (h : stagedChainOf x = some c) :
    chainCode c = x := by
  unfold stagedChainOf at h
  split at h
  case isTrue hnone => cases h; exact hnone.symm
  case isFalse =>
    split at h
    case isTrue hlt => cases h; exact BitVec.eq_of_toNat_eq (toNat_chainCode_some _)
    case isFalse => cases h

/-- `stagedChainOf` reads the chain code. -/
theorem stagedChainOf_eq_some_iff {x : BitVec 7} {c : Option SlotId} : stagedChainOf x = some c ↔ chainCode c = x :=
  ⟨chainCode_of_stagedChainOf, fun h => h ▸ stagedChainOf_chainCode c⟩

/-- The codes 0 to 63 and 0x7F are those of a slot and of NONE. -/
theorem exists_chainCode {x : BitVec 7} : (∃ c, chainCode c = x) ↔ x.toNat ≤ 63 ∨ x = 0x7F := by
  constructor
  · rintro ⟨c, rfl⟩
    cases c with
    | none => exact .inr rfl
    | some i => left; rw [toNat_chainCode_some]; omega
  · rintro (h | rfl)
    · exact ⟨some ⟨x.toNat, by omega⟩, BitVec.eq_of_toNat_eq (toNat_chainCode_some _)⟩
    · exact ⟨none, rfl⟩

/-- A flag of one bit is the code of what it says. -/
@[simp] theorem ofBool_beq_one (x : BitVec 1) : BitVec.ofBool (x == 1#1) = x := by
  revert x; decide

/-! ### The checks of R12 -/

/-- NOTIFY goes with NONE, in codes. -/
theorem lineAgrees_iff {a : Action} {l : Option LineId} :
    lineAgrees a l = true ↔ (actionCode a = 5 ↔ lineCode5 l = 0x1F) := by
  rw [lineCode5_eq_none_iff]
  cases a <;> cases l <;> simp [lineAgrees, actionCode]

/-- The period of a PULSE exceeds its width, in codes. -/
theorem pulseFits_iff {a : Action} {period : BitVec 24} {width : BitVec 16} :
    pulseFits a period width = true ↔ (actionCode a = 3 → period ≠ 0 → width.toNat < period.toNat) := by
  have hcode : actionCode a = 3 ↔ a = .pulse := by cases a <;> decide
  simp only [pulseFits, hcode, Bool.or_eq_true, bne_iff_ne, beq_iff_eq, decide_eq_true_eq]
  tauto

/-- The descriptor that a captured record stands for, its four checked codes read (R11, R161). -/
def descriptorFrom (r : Staging) (a : Action) (l : Option LineId) (m : NotifyMode) (c : Option SlotId) : Descriptor where
  action      := a
  line        := l
  time        := r.time
  period      := r.period
  repeats     := r.repeats
  width       := r.width
  group       := ⟨r.group.toNat, r.group.isLt⟩
  late        := latePolicyOf r.late
  tolerance   := r.tolerance
  notify      := m
  chain       := c
  chainOffset := if c.isNone then 0 else r.chainOffset
  autoRelease := r.autoRelease == 1

/-- The four checked codes of `r` are those of an action, a line, a notify mode and a chain target. -/
structure ReadsAs (r : Staging) (a : Action) (l : Option LineId) (m : NotifyMode) (c : Option SlotId) : Prop where
  action : actionCode a = r.action
  line   : lineCode5 l = r.line
  notify : notifyModeCode m = r.notify
  chain  : chainCode c = r.chain

section Reads
variable {r : Staging} {a : Action} {l : Option LineId} {m : NotifyMode} {c : Option SlotId}

/-- The descriptor read from a record is written as what LOAD stores of it (R11, R161). -/
theorem stagingOf_descriptorFrom (h : ReadsAs r a l m c) : stagingOf (descriptorFrom r a l m c) = storedFrom r := by
  obtain ⟨haction, hline, hnotify, hchain⟩ := h
  have hnone : r.chain = 0x7F ↔ c = none := by rw [← hchain, chainCode_eq_none_iff]
  cases c with
  | none =>
    rw [storedFrom, if_pos (hnone.2 rfl)]
    simp [stagingOf, descriptorFrom, haction, hline, hnotify, hchain]
  | some i =>
    rw [storedFrom, if_neg fun h => by cases hnone.1 h]
    simp [stagingOf, descriptorFrom, haction, hline, hnotify, hchain]

/-- A record whose codes are read passes R12 where the four checks across fields hold. -/
theorem passesR12_iff_of_readsAs (h : ReadsAs r a l m c) :
    PassesR12 r ↔ (lineAgrees a l && r.width != 0 && pulseFits a r.period r.width
      && (c.isNone || r.chainOffset != 0)) = true := by
  obtain ⟨haction, hline, hnotify, hchain⟩ := h
  have hactions := exists_actionCode.1 ⟨a, haction⟩
  have hlines := exists_lineCode5.1 ⟨l, hline⟩
  have hnotifies := exists_notifyModeCode.1 ⟨m, hnotify⟩
  have hchains := exists_chainCode.1 ⟨c, hchain⟩
  have hoffset : (c.isNone || r.chainOffset != 0) = true ↔ (r.chain ≠ 0x7F → r.chainOffset ≠ 0) := by
    rw [← hchain, Ne, chainCode_eq_none_iff]; cases c <;> simp
  simp only [PassesR12, hactions, hlines, hnotifies, hchains, true_and, Bool.and_eq_true, and_assoc, hoffset,
    lineAgrees_iff, pulseFits_iff, haction, hline, bne_iff_ne]

/-- A record whose codes are read stands for its descriptor, or for none, by R12. -/
theorem descriptorOf_of_readsAs (h : ReadsAs r a l m c) :
    (PassesR12 r → descriptorOf r = some (descriptorFrom r a l m c))
      ∧ (¬ PassesR12 r → descriptorOf r = none) := by
  rw [passesR12_iff_of_readsAs h]
  obtain ⟨haction, hline, hnotify, hchain⟩ := h
  simp only [descriptorOf, actionOf_eq_some_iff.2 haction, stagedLineOf_eq_some_iff.2 hline,
    notifyModeOf_eq_some_iff.2 hnotify, stagedChainOf_eq_some_iff.2 hchain, Option.bind_eq_bind, Option.bind_some]
  exact ⟨fun hp => if_pos hp, fun hp => if_neg hp⟩

end Reads

/-- The codes of a record that passes R12 are read. -/
theorem readsAs_of_passesR12 {r : Staging} (h : PassesR12 r) : ∃ a l m c, ReadsAs r a l m c := by
  obtain ⟨haction, hline, -, -, -, hnotify, hchain, -⟩ := h
  obtain ⟨a, ha⟩ := exists_actionCode.2 haction
  obtain ⟨l, hl⟩ := exists_lineCode5.2 hline
  obtain ⟨m, hm⟩ := exists_notifyModeCode.2 hnotify
  obtain ⟨c, hc⟩ := exists_chainCode.2 hchain
  exact ⟨a, l, m, c, ha, hl, hm, hc⟩

/-- The codes of a record that stands for a descriptor are read. -/
theorem readsAs_of_descriptorOf {r : Staging} {d : Descriptor} (h : descriptorOf r = some d) :
    ∃ a l m c, ReadsAs r a l m c := by
  simp only [descriptorOf, Option.bind_eq_bind, Option.bind_eq_some_iff] at h
  obtain ⟨a, ha, l, hl, m, hm, c, hc, -⟩ := h
  exact ⟨a, l, m, c, actionOf_eq_some_iff.1 ha, stagedLineOf_eq_some_iff.1 hl, notifyModeOf_eq_some_iff.1 hm,
    stagedChainOf_eq_some_iff.1 hc⟩

/-- A record that passes R12 stands for the descriptor that is written as what LOAD stores of it (R11, R12). -/
theorem descriptorOf_of_passesR12 {r : Staging} (h : PassesR12 r) :
    ∃ d, descriptorOf r = some d ∧ stagingOf d = storedFrom r := by
  obtain ⟨a, l, m, c, hread⟩ := readsAs_of_passesR12 h
  exact ⟨_, (descriptorOf_of_readsAs hread).1 h, stagingOf_descriptorFrom hread⟩

/-- A record that fails R12 stands for no descriptor. -/
theorem descriptorOf_eq_none {r : Staging} (h : ¬ PassesR12 r) : descriptorOf r = none := by
  cases hd : descriptorOf r with
  | none => rfl
  | some d =>
    obtain ⟨a, l, m, c, hread⟩ := readsAs_of_descriptorOf hd
    rw [(descriptorOf_of_readsAs hread).2 h] at hd
    cases hd

/-! ### Slot commands -/

/-- A slot command on a slot that no fire has claimed acts on the state of the taking (R9, R10, R141). -/
theorem writeCmdByte_slotCommand {s : State} {i : SlotId} (ht : TakesCommand s) (hi : (argNow s 0).toNat = i.val)
    (hf : NotFired s i) (code : Byte) (act : SlotId → State → State) :
    s.writeCmdByte code (slotCommand act) = (act i (s.taken code)).advance := by
  have hclaim : (s.taken code).claim i = s.taken code := claim_not_fired (s := s.taken code) hf
  rw [writeCmdByte_taken ht, slotCommand, taken_arg, slotArg_eq hi]
  simp only [hclaim]

/-- LOAD of an EMPTY or LOADED slot stores the descriptor of a record that stands for one (R11). -/
theorem loadAt_stores {s : State} {i : SlotId} {d : Descriptor}
    (hs : (s.slot i).state = .empty ∨ (s.slot i).state = .loaded)
    (hd : descriptorOf s.cmd.captured.staging = some d) :
    loadAt i s = (s.setSlot i { s.slot i with desc := d, state := .loaded }).finish .ok := by
  rcases hs with hs | hs <;> simp only [loadAt, hs, hd]

/-- LOAD of an EMPTY or LOADED slot answers RANGE to a record that stands for none (R12). -/
theorem loadAt_range {s : State} {i : SlotId}
    (hs : (s.slot i).state = .empty ∨ (s.slot i).state = .loaded)
    (hd : descriptorOf s.cmd.captured.staging = none) : loadAt i s = s.finish .range := by
  rcases hs with hs | hs <;> simp only [loadAt, hs, hd]

/-- Settles O5: the checks of R12 are those of `descriptorOf`, whose descriptor is written as the record stored. -/
theorem loadChecksAndStores : Obligations.LoadChecksAndStores := by
  intro s i ht hi hf hs
  have hexec : exec .load s = .next (loadAt i (s.taken 0x01)).advance :=
    congrArg Host.Outcome.next (writeCmdByte_slotCommand ht hi hf 0x01 loadAt)
  constructor
  · intro hpass
    obtain ⟨d, hd, hstored⟩ := descriptorOf_of_passesR12 hpass
    refine ⟨d, hstored, ?_⟩
    rw [hexec, loadAt_stores (s := s.taken 0x01) hs hd]
    rfl
  · intro hfail
    rw [hexec, loadAt_range (s := s.taken 0x01) hs (descriptorOf_eq_none hfail), taken_finish]

end Sys2Proof.Machine
end

section
/-! The Pending List and dispatch (02): with a re-sort in flight no row but its end and full reset reaches the Slot
Table or the Pending List (R34). A command row collides, a walk has no visit to make, and with the Timebase STOPPED, no
fire in progress and no trigger arm to come nothing else asks for an insertion or a removal. -/

namespace Sys2Proof.Machine

/-! ### The schedule: what an insertion or a removal reaches -/

/-- The Slot Table and the Pending List. -/
def State.schedule (s : State) : Vector Slot 64 × List Entry := (s.slots, s.plist)

/-- Equal schedules are equal slots and equal lists. -/
theorem schedule_eq_iff {s t : State} :
    t.schedule = s.schedule ↔ t.plist = s.plist ∧ ∀ i : SlotId, t.slot i = s.slot i := by
  simp only [State.schedule, Prod.mk.injEq]
  constructor
  · rintro ⟨hslots, hlist⟩
    exact ⟨hlist, fun i => by rw [State.slot, State.slot, hslots]⟩
  · rintro ⟨hlist, hslots⟩
    exact ⟨Vector.ext fun i hi => hslots ⟨i, hi⟩, hlist⟩

/-- The outcome is a next state with the schedule of `s`. -/
def KeepsSchedule (s : State) (out : Host.Outcome State Fault Refusal) : Prop :=
  ∃ t, out = .next t ∧ t.schedule = s.schedule

/-- A next state with the same schedule is such an outcome. -/
theorem keepsSchedule_next {s t : State} (h : t.schedule = s.schedule) : KeepsSchedule s (.next t) := ⟨t, rfl, h⟩

/-- A choice between two states with the schedule of `s` has it too. -/
theorem ite_schedule {P : Prop} [Decidable P] {s t u : State} (ht : t.schedule = s.schedule)
    (hu : u.schedule = s.schedule) : (if P then t else u).schedule = s.schedule := by
  split
  · exact ht
  · exact hu

/-! ### Operations that leave the schedule alone in every state -/

section Operations
variable (s : State)

@[simp] theorem post_schedule (stamp : Tick) (body : NotificationBody) :
    (s.post stamp body).schedule = s.schedule := by
  rw [post_eq]; rfl

@[simp] theorem postIf_schedule (stamp : Tick) (body : Option NotificationBody) :
    (s.postIf stamp body).schedule = s.schedule := by
  rw [postIf_eq]; rfl

@[simp] theorem postTrips_schedule (n : Nat) : (s.postTrips n).schedule = s.schedule := by
  rw [postTrips_eq]; rfl

/-- A line configuration commit reaches the Line Unit and the queue alone (R58, R59). -/
@[simp] theorem commitLine_schedule (new : LineConfig) : (s.commitLine new).schedule = s.schedule :=
  ite_schedule rfl (postIf_schedule _ _ _)

@[simp] theorem writeLineConfigTop_schedule (v : Byte) : (s.writeLineConfigTop v).schedule = s.schedule :=
  commitLine_schedule _ _

@[simp] theorem writeArg_schedule (k : Nat) (v : Byte) : (s.writeArg k v).schedule = s.schedule := by
  unfold State.writeArg; split <;> rfl

@[simp] theorem writeSyncVal_schedule (k : Nat) (v : Byte) : (s.writeSyncVal k v).schedule = s.schedule :=
  ite_schedule rfl rfl

@[simp] theorem writePostMask_schedule (k : Nat) (v : Byte) : (s.writePostMask k v).schedule = s.schedule :=
  ite_schedule rfl rfl

@[simp] theorem popNotification_schedule : s.popNotification.schedule = s.schedule := by
  unfold State.popNotification; split <;> rfl

@[simp] theorem popCapture_schedule : s.popCapture.schedule = s.schedule := by
  unfold State.popCapture; split <;> rfl

/-- A latch or a pop reaches the window, the queue, the Capture Unit or the port (R156, R157). -/
@[simp] theorem latchAt_schedule (a : Nat) : (s.latchAt a).schedule = s.schedule := by
  unfold State.latchAt
  exact ite_schedule rfl <| ite_schedule rfl <| ite_schedule rfl <| ite_schedule rfl <| ite_schedule rfl <|
    ite_schedule (popNotification_schedule s) <| ite_schedule (popCapture_schedule s) rfl

/-- A byte read reaches the schedule by nothing that its latch does not (R153). -/
@[simp] theorem readByte_schedule : s.readByte.schedule = s.schedule := by
  have hlatch := latchAt_schedule s s.port.pointer.toNat
  exact ite_schedule (P := s.port.pointer.toNat = 0x02) hlatch hlatch

@[simp] theorem readAt_schedule (a : Addr) : (s.readAt a).schedule = s.schedule :=
  ite_schedule (readByte_schedule s) rfl

/-- A byte written at an address leaves what its effect leaves. -/
theorem writeAt_schedule {s : State} {act : State → State} (h : (act s).schedule = s.schedule) (a : Addr) :
    (s.writeAt a act).schedule = s.schedule :=
  ite_schedule h rfl

/-- A write of CMD found BUSY hands nothing to an owner (R143). -/
theorem writeCommand_schedule {s : State} (h : s.busy = true) (code : Byte) (owner : State → State) :
    (s.writeCommand code owner).schedule = s.schedule := by
  rw [State.writeCommand, if_pos h]; rfl

/-- A command row found BUSY collides (R143). -/
theorem writeCmdByte_schedule {s : State} (h : s.busy = true) (code : Byte) (owner : State → State) :
    (s.writeCmdByte code owner).schedule = s.schedule :=
  writeAt_schedule (writeCommand_schedule h code owner) cmdAddr

/-- While the Timebase is STOPPED a channel's filter takes its input's level at once and accepts no edge (R117). -/
theorem followInput_schedule {s : State} (h : s.timebase.running = false) (k : ChannelId) (level : Bool) :
    (s.followInput k level).schedule = s.schedule := by
  have hworks : s.filterWorks k = false := by rw [State.filterWorks, h, Bool.false_and]
  rw [State.followInput, if_neg (by simp [hworks])]; rfl

/-- A commit on a channel whose filter is STABLE sets its fields and accepts no edge (R121). -/
theorem commitChannel_schedule {s : State} {level : Bool} (h : (s.channel s.selectedChannel).filter = .stable level)
    (x : BitVec 48) : (s.commitChannel x).schedule = s.schedule := by
  have hkept : ((s.channel s.selectedChannel).configured x).filter = .stable level := h
  simp only [State.commitChannel, hkept]; rfl

end Operations

/-! ### A re-sort in flight (R33, R34) -/

/-- What stands while a re-sort is in flight: the Timebase STOPPED, no fire in progress, every filter at rest and no
trigger arm to come (R34, R97, R119). -/
structure Resorting (s : State) : Prop where
  inHand  : ∃ time epoch, s.cmd.inHand = some (.resort time epoch)
  stopped : s.timebase.running = false
  idle    : s.dispatcher = .idle
  atRest  : ∀ k : ChannelId, ∃ level, (s.channel k).filter = .stable level
  noArm   : ∀ k : ChannelId, (s.channel k).arm = none

/-- The invariants of the Timebase, the Dispatcher and the Capture Unit say what stands during a re-sort. -/
theorem resorting_of_sound {s : State} {time : Tick} {epoch : BitVec 16}
    (hwork : s.cmd.inHand = some (.resort time epoch)) (htime : TimebaseSound s) (hfire : FireSound s)
    (hchannels : ChannelsSound s) : Resorting s := by
  obtain ⟨-, -, hstopped, -⟩ := htime
  obtain ⟨-, hidle, -, -⟩ := hfire
  have hstop := hstopped time epoch hwork
  refine ⟨⟨time, epoch, hwork⟩, hstop, hidle time epoch hwork, fun k => ?_, fun k => ?_⟩
  · obtain ⟨hfilter, -, -, -⟩ := hchannels k
    exact ⟨_, hfilter (.inl hstop)⟩
  · obtain ⟨-, -, -, harm⟩ := hchannels k
    exact harm hstop

namespace Resorting
variable {s : State} (h : Resorting s)
include h

/-- The re-sort is the work of a command in hand (R140). -/
theorem busy : s.busy = true := by
  obtain ⟨time, epoch, hwork⟩ := h.inHand
  rw [State.busy, hwork]; rfl

/-- Taking a happening off the queue does not touch the re-sort. -/
theorem withPending (rest : List Instr) : Resorting (s.withPending rest) :=
  ⟨h.inHand, h.stopped, h.idle, h.atRest, h.noArm⟩

/-- A channel configuration commit finds the filter at rest, so it accepts no edge (R121). -/
theorem writeCapConfigTop_schedule (v : Byte) : (s.writeCapConfigTop v).schedule = s.schedule := by
  obtain ⟨level, hlevel⟩ := h.atRest s.selectedChannel
  exact commitChannel_schedule
    (s := s.withHold { s.window.hold with capConfig := putByte s.window.hold.capConfig 5 v }) hlevel _

/-- No byte of the register map reaches the schedule: CMD collides, and a commit starts nothing (R143, R160). -/
theorem writeByte_schedule (a : Nat) (v : Byte) : (s.writeByte a v).schedule = s.schedule := by
  unfold State.writeByte
  exact ite_schedule rfl <| ite_schedule rfl <| ite_schedule (writeArg_schedule s _ v) <|
    ite_schedule (writeCommand_schedule h.busy v _) <| ite_schedule rfl <| ite_schedule rfl <|
    ite_schedule (writeLineConfigTop_schedule s v) <| ite_schedule rfl <|
    ite_schedule (h.writeCapConfigTop_schedule v) <| ite_schedule (writeSyncVal_schedule s _ v) <|
    ite_schedule rfl <| ite_schedule rfl <| ite_schedule (writePostMask_schedule s _ v) <| ite_schedule rfl rfl

/-- A write of a code to CMD collides, whatever row it comes by (R143). -/
theorem execCollide_keepsSchedule (code : Byte) : KeepsSchedule s (execCollide code s) := by
  refine keepsSchedule_next ?_
  rw [if_pos h.busy]
  exact writeAt_schedule (act := State.collided) rfl cmdAddr

/-- No entry is due while the Timebase is STOPPED (R37). -/
theorem headDue_eq_false (e : Entry) : s.headDue e = false := by
  rw [State.headDue, h.stopped, Bool.false_and]

/-- The head of the list waits, and no fire in progress goes on (R37, R38). -/
theorem execFire_keepsSchedule : KeepsSchedule s (execFire s) := by
  refine keepsSchedule_next ?_
  rw [h.idle]
  cases s.plist with
  | nil => rfl
  | cons e rest => exact congrArg State.schedule (if_neg (Bool.eq_false_iff.1 (h.headDue_eq_false e)))

/-- T does not count while the Timebase is STOPPED, so no entry becomes one kept due (R37, R93). -/
theorem execTick_keepsSchedule : KeepsSchedule s (execTick s) :=
  keepsSchedule_next (by rw [if_neg (by simp [h.stopped])])

/-- No SYNC edge is honoured while the Timebase is STOPPED, so no due time shifts (R100). -/
theorem execSyncEdge_keepsSchedule : KeepsSchedule s (execSyncEdge s) :=
  keepsSchedule_next (by rw [if_neg (by simp [h.stopped])])

/-- A change of a K input is accepted as no edge while the Timebase is STOPPED (R117). -/
theorem execCaptureInputChange_keepsSchedule (k : ChannelId) : KeepsSchedule s (execCaptureInputChange k s) :=
  keepsSchedule_next (followInput_schedule
    (s := s.withPins { s.pins with k := s.pins.k.set k (!s.inputLevel k) }) h.stopped k _)

/-- No acceptance is due and no trigger arm is to come (R118, R124). -/
theorem execAcceptance_keepsSchedule (k : ChannelId) : KeepsSchedule s (execAcceptance k s) := by
  obtain ⟨level, hlevel⟩ := h.atRest k
  refine keepsSchedule_next ?_
  rw [if_neg (by simp [h.noArm k]), hlevel]

end Resorting

/-! ### Rows of the lines and the clocks, in every state -/

section Rows
variable (s : State)

/-- A release of a pulse reaches its line alone (R63). -/
theorem execReleaseOfAPulse_keepsSchedule (l : LineId) : KeepsSchedule s (execReleaseOfAPulse l s) := by
  refine keepsSchedule_next ?_
  cases (s.line l).pulse with
  | none => rfl
  | some p => exact ite_schedule rfl rfl

/-- A guard tick and its posts reach the Line Unit and the queue alone (R68, R69). -/
theorem execGuardTick_keepsSchedule : KeepsSchedule s (execGuardTick s) := by
  refine keepsSchedule_next ?_
  have hticked : (if s.lineUnit.trips.isEmpty then s.takeGuardTick else s).schedule = s.schedule :=
    ite_schedule rfl rfl
  exact ite_schedule hticked ((postTrips_schedule _ _).trans hticked)

/-- HOLDN falling reaches the lines alone (R72). -/
theorem execHoldnAssertion_keepsSchedule : KeepsSchedule s (execHoldnAssertion s) :=
  keepsSchedule_next (ite_schedule rfl rfl)

/-- HOLDN rising reaches the lines alone (R73). -/
theorem execHoldnRelease_keepsSchedule : KeepsSchedule s (execHoldnRelease s) :=
  keepsSchedule_next (ite_schedule rfl rfl)

/-- An edge of REFCLK reaches the Clock Unit, the prescaler phase and the queue (R108, R111). -/
theorem execRefclkEdge_keepsSchedule : KeepsSchedule s (execRefclkEdge s) := by
  refine keepsSchedule_next ?_
  cases s.clock.monitor with
  | idle | watching => rfl
  | confirming count => exact ite_schedule rfl (post_schedule _ _ _)

/-- The end of a gap reaches the Clock Unit, the prescaler phase and the queue (R108, R113). -/
theorem execGapTooLong_keepsSchedule : KeepsSchedule s (execGapTooLong s) := by
  refine keepsSchedule_next ?_
  cases s.clock.monitor with
  | idle | confirming count => rfl
  | watching => exact post_schedule _ _ _

/-- The end of the switch timer reaches the Clock Unit and the queue (R112). -/
theorem execSwitchTimeout_keepsSchedule : KeepsSchedule s (execSwitchTimeout s) :=
  keepsSchedule_next (ite_schedule (post_schedule _ _ _) rfl)

end Rows

/-! ### Every row -/

/-- With a re-sort in flight every row but its own end and full reset leaves the slots and the list alone (R34). -/
theorem exec_keepsSchedule {s : State} (h : Resorting s) {c : Instr} (hend : c ≠ .resortComplete)
    (hreset : c ≠ .fullReset) : KeepsSchedule s (exec c s) := by
  obtain ⟨time, epoch, hwork⟩ := h.inHand
  cases c with
  | resortComplete => exact absurd rfl hend
  | fullReset => exact absurd rfl hreset
  | load | arm | disarm | release | retime | query | suspendGroup | resumeGroup | disarmGroup | start | stop | settime
  | switchClock | loadPattern | clearPattern | clearTrip | lockLines | safe | flushCapture | softReset
  | unknownCommand code => exact keepsSchedule_next (writeCmdByte_schedule h.busy _ _)
  | collide code => exact h.execCollide_keepsSchedule code
  | suspendGroupVisit | resumeGroupVisit | disarmGroupVisit | safeSlotVisit | safeLineVisit | commandCompletion =>
    exact keepsSchedule_next (by rw [hwork])
  | fire => exact h.execFire_keepsSchedule
  | tick => exact h.execTick_keepsSchedule
  | syncEdge => exact h.execSyncEdge_keepsSchedule
  | captureInputChange k => exact h.execCaptureInputChange_keepsSchedule k
  | acceptance k => exact h.execAcceptance_keepsSchedule k
  | channelConfigurationCommit v =>
    exact keepsSchedule_next (writeAt_schedule (h.writeCapConfigTop_schedule v) _)
  | registerWrite v => exact keepsSchedule_next (ite_schedule (h.writeByte_schedule _ v) rfl)
  | releaseOfAPulse l => exact execReleaseOfAPulse_keepsSchedule s l
  | guardTick => exact execGuardTick_keepsSchedule s
  | holdnAssertion => exact execHoldnAssertion_keepsSchedule s
  | holdnRelease => exact execHoldnRelease_keepsSchedule s
  | lineConfigurationCommit v => exact keepsSchedule_next (writeAt_schedule (writeLineConfigTop_schedule s v) _)
  | refclkEdge => exact execRefclkEdge_keepsSchedule s
  | gapTooLong => exact execGapTooLong_keepsSchedule s
  | switchTimeout => exact execSwitchTimeout_keepsSchedule s
  | capturePop | notificationPop | statusRead => exact keepsSchedule_next (readAt_schedule s _)
  | latchRead => exact keepsSchedule_next (ite_schedule (readByte_schedule s) rfl)
  | irqEnableWrite v => exact keepsSchedule_next (writeAt_schedule (act := fun s => s.writeCtrl v) rfl _)
  | frameStart => exact keepsSchedule_next (ite_schedule rfl (ite_schedule rfl rfl))
  | addressByte v => exact keepsSchedule_next (by split <;> rfl)
  | frameEnd => exact keepsSchedule_next rfl
  | endOfFullReset => exact keepsSchedule_next (ite_schedule rfl rfl)

/-- A step with a re-sort in flight leaves the slots and the list alone, but for its own end and full reset (R34). -/
theorem step_keepsSchedule {s : State} (h : Resorting s) (hend : s.pending.head? ≠ some .resortComplete)
    (hreset : s.pending.head? ≠ some .fullReset) : KeepsSchedule s (step s) := by
  unfold step
  cases hq : s.pending with
  | nil => exact keepsSchedule_next rfl
  | cons c rest =>
    rw [hq] at hend hreset
    exact exec_keepsSchedule (h.withPending rest) (fun hc => hend (congrArg some hc))
      (fun hc => hreset (congrArg some hc))

/-- Settles O60: the invariants put the part at rest during the re-sort, and then no row but the two excepted reaches
the slots or the list. -/
theorem noInsertionDuringResort : Obligations.NoInsertionDuringResort := by
  intro s t time epoch hwork htime hfire hchannels hend hreset hstep
  obtain ⟨u, hu, hsame⟩ := step_keepsSchedule (resorting_of_sound hwork htime hfire hchannels) hend hreset
  rw [hstep] at hu
  cases hu
  exact schedule_eq_iff.1 hsame

end Sys2Proof.Machine
end

section
/-! Notifications (08): what the append rule answers at each length of the queue, and the bounds of the queue, which it
keeps (R131, R133). -/

namespace Sys2Proof.Machine

/-! ### The entry in the last place -/

/-- An OVERFLOW entry is one that carries a lost count. -/
theorem isOverflow_iff {n : Notification} : n.isOverflow = true ↔ ∃ stamp lost, n = ⟨stamp, .overflow lost⟩ := by
  constructor
  · intro h
    obtain ⟨stamp, body⟩ := n
    cases body with
    | overflow lost => exact ⟨stamp, lost, rfl⟩
    | _ => cases h
  · rintro ⟨stamp, lost, rfl⟩
    rfl

/-- A queue ends in an OVERFLOW entry, or no last entry of it is one. -/
theorem overflowLast_or_not (q : List Notification) :
    (∃ front stamp lost, q = front ++ [⟨stamp, .overflow lost⟩])
      ∨ ∀ x, q.getLast? = some x → x.isOverflow = false := by
  rcases List.eq_nil_or_concat' q with rfl | ⟨front, x, rfl⟩
  · exact .inr fun _ h => nomatch h
  · cases hx : x.isOverflow with
    | true =>
      obtain ⟨stamp, lost, rfl⟩ := isOverflow_iff.1 hx
      exact .inl ⟨front, stamp, lost, rfl⟩
    | false =>
      refine .inr fun y hy => ?_
      rw [List.getLast?_concat] at hy
      exact Option.some.inj hy ▸ hx

/-- The OVERFLOW entries of a queue with an entry put last stand apart when they did without it, and it and the entry before
it are not both such (R133). -/
theorem overflowsApart_concat (q : List Notification) (n : Notification) :
    overflowsApart (q ++ [n]) = (overflowsApart q && q.getLast?.all fun x => !(x.isOverflow && n.isOverflow)) := by
  induction q with
  | nil => rfl
  | cons a rest ih =>
    cases rest with
    | nil => simp [overflowsApart]
    | cons b rest =>
      rw [List.cons_append] at ih
      simp only [List.cons_append, overflowsApart, ih, List.getLast?_cons_cons, Bool.and_assoc]

/-! ### The append rule, by the length and the last entry -/

section Append
variable (now : Tick) (n : Notification)

/-- Below 31 entries a post is appended (R133). -/
theorem appendPost_room {q : List Notification} (h : q.length ≤ 30) : appendPost now n q = q ++ [n] :=
  if_pos (by omega)

/-- From 31 entries on a post is counted into an OVERFLOW entry that stands last (R133). -/
theorem appendPost_counted {front : List Notification} {stamp : Tick} {lost : BitVec 16}
    (h : 31 ≤ (front ++ [(⟨stamp, .overflow lost⟩ : Notification)]).length) :
    appendPost now n (front ++ [⟨stamp, .overflow lost⟩]) = front ++ [⟨stamp, .overflow (satAdd16 lost 1)⟩] := by
  rw [appendPost, if_neg (by omega)]
  simp only [List.getLast?_concat, List.dropLast_concat]

/-- From 31 entries on, with no OVERFLOW entry last, a post makes one (R133). -/
theorem appendPost_overflow {q : List Notification} (h : 31 ≤ q.length)
    (hlast : ∀ x, q.getLast? = some x → x.isOverflow = false) :
    appendPost now n q = q ++ [⟨now, .overflow 1⟩] := by
  rw [appendPost, if_neg (by omega)]
  split
  · next heq => cases hlast _ heq
  · rfl

end Append

/-! ### The bounds of the queue -/

/-- The 32nd place of a queue of at most 32 entries is the last one, or empty. -/
theorem place32_concat_iff {q : List Notification} {n : Notification} (hlen : q.length ≤ 31) :
    (∀ x, (q ++ [n])[31]? = some x → x.isOverflow = true) ↔ (q.length = 31 → n.isOverflow = true) := by
  simp only [List.getElem?_append_right hlen, List.getElem?_singleton]
  constructor
  · intro h hfull
    exact h n (by simp [hfull])
  · intro h x hx
    split at hx
    · cases hx
      exact h (by omega)
    · cases hx

/-- With an entry put last a queue is sound when it was sound without it, had a place free, and the entry is an OVERFLOW
entry in the 32nd place and in no place next to another (R133). -/
theorem queueSound_concat_iff {q : List Notification} {n : Notification} :
    QueueSound (q ++ [n]) ↔ QueueSound q ∧ q.length ≤ 31 ∧ (q.length = 31 → n.isOverflow = true)
      ∧ ∀ x, q.getLast? = some x → (x.isOverflow && n.isOverflow) = false := by
  have hlast : (q.getLast?.all fun x => !(x.isOverflow && n.isOverflow)) = true
      ↔ ∀ x, q.getLast? = some x → (x.isOverflow && n.isOverflow) = false := by
    simp only [Option.all_eq_true, Bool.not_eq_true']
  simp only [QueueSound, List.length_append, List.length_singleton, overflowsApart_concat, Bool.and_eq_true, hlast]
  constructor
  · rintro ⟨hlen, hplace, hq, hn⟩
    have hshort : q.length ≤ 31 := by omega
    refine ⟨⟨by omega, fun x hx => ?_, hq⟩, hshort, (place32_concat_iff hshort).1 hplace, hn⟩
    rw [List.getElem?_eq_none hshort] at hx
    cases hx
  · rintro ⟨⟨-, -, hq⟩, hlen, hplace, hn⟩
    exact ⟨by omega, (place32_concat_iff hlen).2 hplace, hq, hn⟩

/-- A sound queue with no OVERFLOW entry last has its 32nd place free (R133). -/
theorem QueueSound.length_le_31 {q : List Notification} (h : QueueSound q)
    (hlast : ∀ x, q.getLast? = some x → x.isOverflow = false) : q.length ≤ 31 := by
  rcases List.eq_nil_or_concat' q with rfl | ⟨front, x, rfl⟩
  · exact Nat.zero_le 31
  · obtain ⟨-, hlen, hplace, -⟩ := queueSound_concat_iff.1 h
    have hnot : front.length ≠ 31 := fun hfull =>
      Bool.false_ne_true ((hlast x List.getLast?_concat).symm.trans (hplace hfull))
    rw [List.length_append, List.length_singleton]
    omega

/-- The bounds do not look at a lost count. -/
theorem QueueSound.withLost {front : List Notification} {stamp : Tick} {lost : BitVec 16}
    (h : QueueSound (front ++ [⟨stamp, .overflow lost⟩])) (lost' : BitVec 16) :
    QueueSound (front ++ [⟨stamp, .overflow lost'⟩]) := by
  obtain ⟨hfront, hlen, -, hapart⟩ := queueSound_concat_iff.1 h
  exact queueSound_concat_iff.2 ⟨hfront, hlen, fun _ => rfl, hapart⟩

/-- The append rule keeps the bounds of the queue (R133). -/
theorem QueueSound.appendPost {q : List Notification} {n : Notification} (h : QueueSound q)
    (hn : n.isOverflow = false) (now : Tick) : QueueSound (appendPost now n q) := by
  by_cases hroom : q.length ≤ 30
  · rw [appendPost_room now n hroom]
    exact queueSound_concat_iff.2 ⟨h, by omega, by omega, fun x _ => by rw [hn, Bool.and_false]⟩
  rcases overflowLast_or_not q with ⟨front, stamp, lost, rfl⟩ | hlast
  · rw [appendPost_counted now n (by omega)]
    exact h.withLost _
  · rw [appendPost_overflow now n (by omega) hlast]
    exact queueSound_concat_iff.2
      ⟨h, h.length_le_31 hlast, fun _ => rfl, fun x hx => by rw [hlast x hx, Bool.false_and]⟩

/-- Settles O40: the append rule case by case, the bounds kept in each, and the post mask before it. -/
theorem appendRule : Obligations.AppendRule := by
  refine ⟨fun now n q => ⟨appendPost_room now n, ?_, fun hfull => appendPost_overflow now n hfull.ge,
    fun h hn => h.appendPost hn now⟩, fun s stamp body => ⟨fun hoff => ?_, fun hon => ?_⟩⟩
  · rintro front stamp lost rfl hfull
    exact appendPost_counted now n hfull
  · rw [State.post, hoff]
    rfl
  · rw [State.post, if_pos hon]
    rfl

end Sys2Proof.Machine
end

section
/-! What a step can do, said once (all chapters): the elementary changes of the state that the rows are made of, each with
what the manual requires where it is made; every row but FIRE and full reset is a chain of them, and FIRE takes the head and
goes on with a chain of the changes that belong to fires. What every step keeps is then shown change by change. -/

namespace Sys2Proof.Machine

/-! ### The work in hand -/

/-- Work that no rule about the list, the groups or the Timebase speaks of: all but the group walks that move slots between
PENDING and SUSPENDED, the re-sort and SOFT_RESET. -/
def Work.plain : Work → Bool
  | .finished _ | .disarmWalk _ _ | .safeSlots _ | .safeLines _ => true
  | .suspendWalk _ _ | .resumeWalk _ _ | .resort _ _ | .softReset _ => false

/-- A command with plain work is in hand. -/
def State.PlainWork (s : State) : Prop := ∃ w, s.cmd.inHand = some w ∧ w.plain = true

/-- Stage five of the fire is behind it. -/
def FireStage.placed : FireStage → Bool
  | .apply | .place _ => false
  | .chain _ _ _ | .notify _ _ _ _ | .miss _ => true

/-! ### The changes -/

/-- The changes that the handling of a fire and a trigger arm are made of (R38 to R51, R122). -/
inductive FireChange (s : State) : State → Prop
  | post (stamp : Tick) (body : NotificationBody) (hb : Notification.isOverflow ⟨stamp, body⟩ = false) :
      FireChange s (s.post stamp body)
  | act (c : FireCopy) (l : LineId) : FireChange s (s.setLine l (s.handOver c l).line)
  | applied {c : FireCopy} (a : Applied) (h : s.dispatcher = .firing c .apply) :
      FireChange s (s.withDispatcher (.firing c (.place a)))
  | place {c : FireCopy} {a : Applied} {stage : FireStage} (h : s.dispatcher = .firing c (.place a))
      (hp : stage.placed = true) : FireChange s ((s.accountAndPlace c).withDispatcher (.firing c stage))
  | goOn {c : FireCopy} {stage next : FireStage} (h : s.dispatcher = .firing c stage) (hp : stage.placed = true)
      (hn : next.placed = true) : FireChange s (s.withDispatcher (.firing c next))
  | done {c : FireCopy} {stage : FireStage} (h : s.dispatcher = .firing c stage) (hp : stage.placed = true) :
      FireChange s (s.withDispatcher .idle)
  | arm {i : SlotId} (due ref : Tick) (h : (s.slot i).state = .loaded) : FireChange s (s.armSlot i due ref)
  | pauses (x : List Nat) : FireChange s (s.withPauses x)

/-- What becomes of the filter of channel `k` when its input takes its other level (R117). -/
inductive Follows (s : State) (k : ChannelId) : Filter → Prop
  | settles : Follows s k (.stable (!s.inputLevel k))
  | qualifies (h : s.filterWorks k = true) (stamp : Tick) :
      Follows s k (.qualifying (s.inputLevel k) stamp (stamp + (s.channel k).filterLength.setWidth 32))
  | returns {l : Bool} {a b : Tick} (h : (s.channel k).filter = .qualifying l a b) : Follows s k (.stable l)

/-- What becomes of the filter of channel `k` when the channel takes the configuration in `c` (R121). -/
inductive Responds (s : State) (k : ChannelId) (c : Channel) : Filter → Prop
  | rests {l : Bool} (h : (s.channel k).filter = .stable l) : Responds s k c (.stable l)
  | abandons : Responds s k c (.stable (s.inputLevel k))
  | moves {l : Bool} {a b : Tick} (h : (s.channel k).filter = .qualifying l a b) (hc : c.edge ≠ .off) :
      Responds s k c (.qualifying l a (a + c.filterLength.setWidth 32))
  | keeps {l : Bool} {a b : Tick} (h : (s.channel k).filter = .qualifying l a b) (hc : c.edge ≠ .off)
      (hlen : c.filterLength = (s.channel k).filterLength) : Responds s k c (.qualifying l a b)

/-- The elementary changes of the state that every row but FIRE and full reset is made of. -/
inductive Change (s : State) : State → Prop
  | fire {t : State} (h : FireChange s t) : Change s t
  -- the model's own counter, the register window and the Serial Port (10)
  | draws (x : Nat) : Change s (s.withDraws x)
  | window (x : Window) : Change s (s.withWindow x)
  | port (x : Port) (hf : x.frame = s.port.frame) (hs : x.sdo = s.port.sdo ∨ s.port.frame = .read) :
      Change s (s.withPort x)
  | frameStart (x : Port) (h : s.pins.rstnLow = false) (hs : x.sdo = none) :
      Change s ((s.withPins { s.pins with csnLow := true }).withPort x)
  | csnFalls : Change s (s.withPins { s.pins with csnLow := true })
  | addressByte (x : Port) (h : s.port.frame = .address) (hs : x.sdo = s.port.sdo) : Change s (s.withPort x)
  | frameEnd (x : Port) (hf : x.frame = .idle) (hs : x.sdo = none) :
      Change s ((s.withPins { s.pins with csnLow := false }).withPort x)
  | endOfReset (h : s.pins.rstnLow = true) :
      Change s (s.withPins { s.pins with rstnLow := false }).settleFilters
  -- the Command Unit (09)
  | cmd (x : CommandUnit) (h : x.inHand = s.cmd.inHand) : Change s (s.withCmd x)
  | taken (code : Byte) (h : s.cmd.inHand = none) : Change s (s.taken code)
  | work (w : Work) (h : s.PlainWork) (hw : w.plain = true) : Change s (s.work w)
  | complete (x : CommandUnit) (h : s.PlainWork ∨ s.cmd.inHand = some (.softReset .completion)) (hx : x.inHand = none) :
      Change s (s.withCmd x)
  | beginReset (h : s.PlainWork) (hr : s.timebase.running = false) : Change s (s.work (.softReset .endOfFire))
  | fireEnded (h : s.cmd.inHand = some (.softReset .endOfFire)) (hd : s.dispatcher = .idle) :
      Change s (s.work (.softReset .capture))
  | resetStage (stage : ResetStage) (h : s.cmd.inHand = some (.softReset stage)) (h2 : stage ≠ .endOfFire)
      (h10 : stage ≠ .completion) : Change s (s.resetStage stage)
  -- the Notification Queue (08)
  | queue (x : NotifyQueue) (h : x.entries = s.queue.entries) : Change s (s.withQueue x)
  | popped {n : Notification} (x : NotifyQueue) (h : s.queue.entries = n :: x.entries) : Change s (s.withQueue x)
  -- slots and groups (01, 04)
  | slot {i : SlotId} (r : Slot) (hw : s.PlainWork) (ho : (s.slot i).state = .empty ∨ (s.slot i).state = .loaded)
      (hr : r.state = .empty ∨ r.state = .loaded) (hs : SlotSound (s.slot i) → SlotSound r) : Change s (s.setSlot i r)
  | remaining {i : SlotId} (x : Tick) (hi : (s.slot i).state = .suspended) (hx : x.toNat < 2 ^ 31) :
      Change s (s.setSlot i { s.slot i with remaining := x })
  | disarm {i : SlotId} (hf : NotFired s i) : Change s (s.disarmSlot i)
  | retime {i : SlotId} (due : Tick) (hf : NotFired s i) (hi : (s.slot i).state = .pending) :
      Change s (((s.removeSlot i).setSlot i { s.slot i with due := due }).insertSlot i)
  | suspendGroup (g : GroupId) (hw : s.PlainWork) :
      Change s ((s.setGroup g ⟨true, s.now⟩).work (.suspendWalk g 0))
  | resumeGroup (g : GroupId) (hw : s.PlainWork) :
      Change s ((s.setGroup g { s.group g with suspended := false }).work (.resumeWalk g 0))
  | suspendVisit {g : GroupId} {i : SlotId} (h : s.cmd.inHand = some (.suspendWalk g i)) (hf : NotFired s i) :
      Change s ((s.suspendVisit g i).work (afterSlot i (.suspendWalk g) (.finished .ok)))
  | resumeVisit {g : GroupId} {i : SlotId} (h : s.cmd.inHand = some (.resumeWalk g i)) (hf : NotFired s i) :
      Change s ((s.resumeVisit g i).work (afterSlot i (.resumeWalk g) (.finished .ok)))
  -- the Timebase (05)
  | timebase (x : Timebase) (ht : x.t = s.timebase.t) (hr : x.running = s.timebase.running)
      (hp : x.phase = s.timebase.phase) (hm : ∀ b, x.marker = some b → s.timebase.marker = some b ∨ 8 ≤ b.val) :
      Change s (s.withTimebase x)
  | handover : Change s s.handover
  | start (p : Fin 9) (hw : s.PlainWork) :
      Change s ((s.withTimebase { s.timebase with prescaler := p, running := true, phase := some 0 }).mapChannels
        fun k c => c.atStart (s.inputLevel k))
  | stop (h : ∀ k : ChannelId, (s.channel k).arm = none) : Change s s.stopTimebase
  | tick (e : BitVec 16) (hr : s.timebase.running = true) :
      Change s ((s.keepDue).withTimebase { s.timebase with t := s.now + 1, e := e, phase := some 0 })
  | settime (t : Tick) (e : BitVec 16) : Change s ((s.shiftStored (t - s.now)).loadTime t e)
  | sync (t : Tick) (hr : s.timebase.running = true) :
      Change s (((s.shiftStored (t - s.now)).shiftFilters (t - s.now)).withTimebase
        { s.timebase with t := t, phase := some 0 })
  | beginResort (t : Tick) (e : BitVec 16) (hw : s.PlainWork) (hr : s.timebase.running = false)
      (hd : s.dispatcher = .idle) : Change s (s.work (.resort t e))
  | resort {t : Tick} {e : BitVec 16} (h : s.cmd.inHand = some (.resort t e)) :
      Change s (((s.withPlist (s.resorted t)).loadTime t e).finish .ok)
  -- the Clock Unit (06)
  | clock (x : Clock) (h : ClockSound s.clock → ClockSound x) : Change s (s.withClock x)
  -- the lines (03)
  | lineUnit (x : LineUnit) (hl : x.lines = s.lineUnit.lines) (hk : s.lineUnit.locked = true → x.locked = true) :
      Change s (s.withLineUnit x)
  | line {l : LineId} (x : Line) (hs : LineSound (s.line l) s.pins.holdnLow → LineSound x s.pins.holdnLow)
      (hc : s.lineUnit.locked = true → x.config = (s.line l).config) : Change s (s.setLine l x)
  | lines (f : Line → Line) (hs : ∀ l, LineSound l s.pins.holdnLow → LineSound (f l) s.pins.holdnLow)
      (hc : ∀ l, (f l).config = l.config) : Change s (s.mapLines fun _ => f)
  | holdn (f : Line → Line) (b : Bool) (hs : ∀ l, LineSound l (!b) → LineSound (f l) b) (hb : s.pins.holdnLow = !b)
      (hc : ∀ l, (f l).config = l.config) : Change s ((s.mapLines fun _ => f).withPins { s.pins with holdnLow := b })
  -- the capture channels (07)
  | offered (r : CaptureRecord) (h : s.capture.fifo.length < 16) :
      Change s (s.withCapture { s.capture with fifo := s.capture.fifo ++ [r] })
  | fifo (x : CaptureUnit) (hc : x.channels = s.capture.channels) (h : FifoSound s → FifoSound (s.withCapture x)) :
      Change s (s.withCapture x)
  | armTaken (k : ChannelId) : Change s (s.setChannel k { s.channel k with arm := none })
  | armAsked (k : ChannelId) (a : TriggerArm) (hr : s.timebase.running = true) :
      Change s (s.setChannel k { s.channel k with arm := some a })
  | accepted {k : ChannelId} {l : Bool} {a b : Tick} (h : (s.channel k).filter = .qualifying l a b) :
      Change s (s.setChannel k { s.channel k with filter := .stable (!l) })
  | follows {k : ChannelId} {f : Filter} (h : Follows s k f) :
      Change s ((s.withPins { s.pins with k := s.pins.k.set k (!s.inputLevel k) }).setChannel k
        { s.channel k with filter := f })
  | configured {k : ChannelId} {c : Channel} {f : Filter} (harm : c.arm = (s.channel k).arm) (h : Responds s k c f) :
      Change s (s.setChannel k { c with filter := f })

/-- A chain of the changes of fires. -/
def FireReach : State → State → Prop := Relation.ReflTransGen FireChange

/-- A chain of changes. -/
def Reach : State → State → Prop := Relation.ReflTransGen Change

/-! ### Chains -/

section Chains
variable {s t u : State}

theorem FireReach.refl (s : State) : FireReach s s := Relation.ReflTransGen.refl

theorem FireReach.trans (h : FireReach s t) (h' : FireReach t u) : FireReach s u := Relation.ReflTransGen.trans h h'

theorem FireChange.reach (h : FireChange s t) : FireReach s t := Relation.ReflTransGen.single h

/-- What every change of fires keeps, a chain of them keeps. -/
theorem FireReach.keeps {P : State → Prop} (hP : ∀ s t, FireChange s t → P s → P t) (h : FireReach s t) (hs : P s) :
    P t := by
  induction h with
  | refl => exact hs
  | tail _ hstep ih => exact hP _ _ hstep ih

theorem Reach.refl (s : State) : Reach s s := Relation.ReflTransGen.refl

theorem Reach.trans (h : Reach s t) (h' : Reach t u) : Reach s u := Relation.ReflTransGen.trans h h'

/-- One change more. -/
theorem Reach.change (h : Reach s t) (h' : Change t u) : Reach s u := Relation.ReflTransGen.tail h h'

theorem Change.reach (h : Change s t) : Reach s t := Relation.ReflTransGen.single h

/-- A chain of the changes of fires is a chain of changes. -/
theorem FireReach.reach (h : FireReach s t) : Reach s t := by
  induction h with
  | refl => exact Reach.refl s
  | tail _ hstep ih => exact ih.trans (Change.fire hstep).reach

/-- What every change keeps, a chain of them keeps. -/
theorem Reach.keeps {P : State → Prop} (hP : ∀ s t, Change s t → P s → P t) (h : Reach s t) (hs : P s) : P t := by
  induction h with
  | refl => exact hs
  | tail _ hstep ih => exact hP _ _ hstep ih

/-- A choice between two states that chains reach. -/
theorem ite_reach {P : Prop} [Decidable P] (ht : P → Reach s t) (hu : ¬ P → Reach s u) :
    Reach s (if P then t else u) := by
  split
  · next h => exact ht h
  · next h => exact hu h

end Chains

end Sys2Proof.Machine
end

section
/-! Every row is made of the changes (all chapters): the rows' operations in the order of the model's files, then the rows. -/

namespace Sys2Proof.Machine

/-! ### Posts and fires (R38 to R51) -/

section Fires
variable {s : State}

/-- A post of any kind but OVERFLOW. -/
theorem post_fireReach (stamp : Tick) {body : NotificationBody} (hb : Notification.isOverflow ⟨stamp, body⟩ = false) :
    FireReach s (s.post stamp body) := (FireChange.post stamp body hb).reach

/-- A conditional post of one kind, not OVERFLOW. -/
theorem postIf_fireReach (stamp : Tick) {P : Prop} [Decidable P] {body : NotificationBody}
    (hb : Notification.isOverflow ⟨stamp, body⟩ = false) :
    FireReach s (s.postIf stamp (if P then some body else none)) := by
  split
  · exact post_fireReach stamp hb
  · exact FireReach.refl s

@[simp] theorem postIf_dispatcher (stamp : Tick) (body : Option NotificationBody) :
    (s.postIf stamp body).dispatcher = s.dispatcher := by rw [postIf_eq]

/-- The chain stage leaves the Dispatcher alone. -/
@[simp] theorem chain_dispatcher (c : FireCopy) (outcome : FireOutcome) :
    (s.chain c outcome).dispatcher = s.dispatcher := by
  obtain ⟨_, _, h, -⟩ := chain_frame s c outcome
  rw [h]

/-- Stage three: the action on the line, the PATTERN_EMPTY, then what comes next (R40, R41). -/
theorem applyStage_fireReach (c : FireCopy) : FireReach s (s.applyStage c) ∧ (s.applyStage c).dispatcher = s.dispatcher := by
  unfold State.applyStage
  split
  · exact ⟨FireReach.refl s, rfl⟩
  · split
    · exact ⟨FireReach.refl s, rfl⟩
    · next l _ => exact ⟨(FireChange.act c l).reach.trans (postIf_fireReach _ rfl), by rw [postIf_dispatcher]; rfl⟩

/-- Stage six arms a LOADED target or nothing (R48, R49). -/
theorem chain_fireReach (c : FireCopy) (outcome : FireOutcome) : FireReach s (s.chain c outcome) := by
  unfold State.chain
  split
  · exact FireReach.refl s
  · split
    · next h => exact (FireChange.arm _ _ h).reach
    all_goals exact FireReach.refl s

/-- A stage of a fire is made of the changes of fires. -/
theorem fireStage_fireReach {c : FireCopy} {stage : FireStage} (h : s.dispatcher = .firing c stage) :
    FireReach s (s.fireStage c stage) := by
  cases stage with
  | apply =>
    obtain ⟨hr, hd⟩ := applyStage_fireReach (s := s) c
    exact hr.trans (FireChange.applied _ (hd.trans h)).reach
  | place a => exact (FireChange.place h rfl).reach
  | chain a last skips =>
    exact (chain_fireReach c a.outcome).trans (FireChange.goOn ((chain_dispatcher c _).trans h) rfl rfl).reach
  | notify a last skips missed =>
    have hd := (postIf_dispatcher c.stamp
      (if c.desc.notify.calls last then some (.fire (c.report a last skips)) else none)).trans h
    refine (postIf_fireReach (P := c.desc.notify.calls last = true) (body := .fire (c.report a last skips))
      c.stamp rfl).trans ?_
    cases missed with
    | none => exact (FireChange.done hd rfl).reach
    | some j => exact (FireChange.goOn hd rfl rfl).reach
  | miss j =>
    have hd : (s.post c.stamp (.chainMiss c.slot j)).dispatcher = .firing c (.miss j) := by rw [post_eq]; exact h
    exact (post_fireReach c.stamp rfl).trans (FireChange.done hd rfl).reach

/-- Any number of stages of a fire. -/
theorem runFire_fireReach (n : Nat) (s : State) : FireReach s (s.runFire n) := by
  induction n generalizing s with
  | zero => exact FireReach.refl s
  | succ n ih =>
    cases h : s.dispatcher with
    | idle => rw [runFire_idle h]; exact FireReach.refl s
    | firing c stage => rw [runFire_succ h]; exact (fireStage_fireReach h).trans (ih _)

/-- A claim runs a fire of its slot to the end, or waits for nothing (R9). -/
theorem claim_fireReach (s : State) (i : SlotId) : FireReach s (s.claim i) := by
  unfold State.claim
  split
  · exact runFire_fireReach 5 s
  · exact FireReach.refl s

/-- After a claim no fire has claimed the slot (R9, R38). -/
theorem claim_notFired (s : State) (i : SlotId) : NotFired (s.claim i) i := by
  unfold State.claim
  split
  · rw [NotFired, State.firedSlot, endFire_dispatcher]; exact nofun
  · next h => exact h

/-- A trigger arm claims its slot and then arms it or posts its miss (R124). -/
theorem triggerArm_fireReach (k : ChannelId) (a : TriggerArm) : FireReach s (s.triggerArm k a) := by
  refine (claim_fireReach s a.slot).trans ?_
  unfold State.triggerArm
  dsimp only
  split
  · next h => exact (FireChange.arm _ _ h).reach
  all_goals exact post_fireReach _ rfl

end Fires

/-! ### Accepted edges (R117 to R124) -/

section Edges
variable {s : State}

/-- A trigger arm still to come is taken. -/
theorem takeArm_reach (s : State) (k : ChannelId) : Reach s (s.takeArm k) := by
  unfold State.takeArm
  split
  · exact Reach.refl s
  · exact (Change.armTaken k).reach.trans (triggerArm_fireReach k _).reach

theorem takeArms_reach (s : State) : Reach s s.takeArms := by
  have : ∀ (ks : List ChannelId) (u : State), Reach u (ks.foldl State.takeArm u) := by
    intro ks
    induction ks with
    | nil => exact Reach.refl
    | cons k rest ih => exact fun u => (takeArm_reach u k).trans (ih _)
  exact this _ s

/-- A trigger arm leaves the Timebase, the Command Unit and the pins alone. -/
@[simp] theorem takeArm_timebase (s : State) (k : ChannelId) : (s.takeArm k).timebase = s.timebase := by
  obtain ⟨_, _, _, _, _, _, h⟩ := takeArm_frame s k; rw [h]
@[simp] theorem takeArm_cmd (s : State) (k : ChannelId) : (s.takeArm k).cmd = s.cmd := by
  obtain ⟨_, _, _, _, _, _, h⟩ := takeArm_frame s k; rw [h]
@[simp] theorem takeArm_pins (s : State) (k : ChannelId) : (s.takeArm k).pins = s.pins := by
  obtain ⟨_, _, _, _, _, _, h⟩ := takeArm_frame s k; rw [h]
@[simp] theorem takeArm_inputLevel (s : State) (k j : ChannelId) : (s.takeArm k).inputLevel j = s.inputLevel j := by
  rw [State.inputLevel, takeArm_pins]; rfl

/-- A trigger arm leaves the filters alone. -/
@[simp] theorem takeArm_filter (s : State) (k j : ChannelId) :
    ((s.takeArm k).channel j).filter = (s.channel j).filter := by
  rw [takeArm_channel]; split <;> rfl

/-- What trigger arms leave alone, all of them together leave alone. -/
theorem takeArms_keeps {P : State → Prop} (hP : ∀ s k, P s → P (s.takeArm k)) (h : P s) : P s.takeArms := by
  have : ∀ (ks : List ChannelId) (u : State), P u → P (ks.foldl State.takeArm u) := by
    intro ks
    induction ks with
    | nil => exact fun _ hu => hu
    | cons k rest ih => exact fun u hu => ih _ (hP u k hu)
  exact this _ s h

@[simp] theorem takeArms_cmd (s : State) : s.takeArms.cmd = s.cmd :=
  takeArms_keeps (P := fun u => u.cmd = s.cmd) (fun u k h => (takeArm_cmd u k).trans h) rfl

/-- Taken one by one, no trigger arm is still to come. -/
theorem takeArms_noArms (s : State) : NoArms s.takeArms := by
  have hkeep : ∀ (ks : List ChannelId) (u : State) (j : ChannelId), ((u.channel j).arm = none ∨ j ∈ ks) →
      ((ks.foldl State.takeArm u).channel j).arm = none := by
    intro ks
    induction ks with
    | nil => rintro u j (h | h); exacts [h, nomatch h]
    | cons k rest ih =>
      intro u j h
      refine ih _ j ?_
      rw [takeArm_channel]
      split
      · exact .inl rfl
      · next hne =>
        rcases h with h | h
        · exact .inl h
        · exact .inr ((List.mem_cons.1 h).resolve_left hne)
  exact fun j => hkeep _ s j (.inr (List.mem_finRange j))

/-- A trigger arm does not look at the pins. -/
theorem takeArm_withPins (s : State) (k : ChannelId) (x : Pins) : (s.withPins x).takeArm k = (s.takeArm k).withPins x := by
  unfold State.takeArm
  rw [State.withPins_channel]
  cases (s.channel k).arm with
  | none => rfl
  | some a =>
    dsimp only
    show ((s.setChannel k { s.channel k with arm := none }).withPins x).triggerArm k a = _
    generalize s.setChannel k { s.channel k with arm := none } = v
    refine (triggerArm_beside v (v.withPins x) k a).trans ?_
    obtain ⟨_, _, _, _, _, h⟩ := triggerArm_frame v k a
    rw [h]
    rfl

/-- A record offered to the FIFO. -/
theorem offerRecord_reach (s : State) (r : CaptureRecord) : Reach s (s.offerRecord r) := by
  unfold State.offerRecord
  exact ite_reach (fun h => (Change.offered r h).reach.trans (postIf_fireReach _ rfl).reach)
    fun _ => (post_fireReach _ rfl).reach

@[simp] theorem offerRecord_timebase (s : State) (r : CaptureRecord) : (s.offerRecord r).timebase = s.timebase := by
  rw [offerRecord_eq]

/-- An accepted edge while the Timebase is RUNNING is recorded, then its trigger arm asked for (R122). -/
theorem handleEdge_reach (hr : s.timebase.running = true) (k : ChannelId) (edge : Edge) (stamp : Tick) :
    Reach s (s.handleEdge k edge stamp) := by
  unfold State.handleEdge
  refine ite_reach (fun _ => ?_) fun _ => Reach.refl s
  refine (offerRecord_reach s ⟨k, edge, stamp⟩).trans ?_
  dsimp only
  split
  · exact Reach.refl _
  · next a _ =>
    have hasked := (Change.armAsked (s := s.offerRecord ⟨k, edge, stamp⟩) k a (by simpa using hr)).reach
    exact ite_reach (fun _ => hasked.trans (Change.fire (.pauses _)).reach)
      fun _ => (hasked.trans (Change.fire (.pauses _)).reach).trans (takeArm_reach _ k)

/-- The acceptance of a qualified edge (R118). -/
theorem acceptEdge_reach {k : ChannelId} {l : Bool} {a b : Tick} (h : (s.channel k).filter = .qualifying l a b)
    (hr : s.timebase.running = true) (stamp : Tick) : Reach s (s.acceptEdge k (!l) stamp) := by
  have hready : ((s.takeArm k).channel k).filter = .qualifying l a b := by simpa using h
  exact ((takeArm_reach s k).trans (Change.accepted hready).reach).trans
    (handleEdge_reach (by simpa using hr) k _ stamp)

/-- A change of an input that its filter accepts at once (R117). -/
theorem acceptInput_reach (hr : s.timebase.running = true) (k : ChannelId) :
    Reach s ((s.withPins { s.pins with k := s.pins.k.set k (!s.inputLevel k) }).acceptEdge k (!s.inputLevel k)
      s.now) := by
  unfold State.acceptEdge
  dsimp only
  rw [takeArm_withPins]
  have hsettles := Change.follows (s := s.takeArm k) (Follows.settles (k := k))
  rw [takeArm_pins, takeArm_inputLevel] at hsettles
  exact ((takeArm_reach s k).trans hsettles.reach).trans (handleEdge_reach (by simpa using hr) k _ _)

/-- Writing the record that a channel holds changes nothing. -/
theorem setChannel_same (s : State) (k : ChannelId) : s.setChannel k (s.channel k) = s := by
  simp [State.setChannel, State.channel, State.withCapture]

/-- A change of a K input (R117). -/
theorem captureInput_reach (k : ChannelId) :
    Reach s ((s.withPins { s.pins with k := s.pins.k.set k (!s.inputLevel k) }).followInput k (!s.inputLevel k)) := by
  have hworks : ∀ x, (s.withPins x).filterWorks k = s.filterWorks k := fun _ => rfl
  unfold State.followInput
  simp only [hworks, State.withPins_channel]
  refine ite_reach (fun hw => ?_) fun _ => (Change.follows Follows.settles).reach
  split
  · next l hl =>
    refine ite_reach (fun he => ?_) fun hne => ite_reach (fun _ => ?_) fun _ => ?_
    · have hsame := Change.follows (s := s) (k := k) Follows.settles
      rw [he, ← hl] at hsame
      have := setChannel_same (s.withPins { s.pins with k := s.pins.k.set k (!s.inputLevel k) }) k
      rw [State.withPins_channel] at this
      rw [he] at this ⊢
      exact this ▸ hsame.reach
    · refine acceptInput_reach ?_ k
      rw [State.filterWorks, Bool.and_eq_true] at hw
      exact hw.1
    · have hl' : l = s.inputLevel k := by
        cases l <;> cases hlev : s.inputLevel k <;> simp_all
      subst hl'
      exact (Change.follows (Follows.qualifies hw s.now)).reach
  · next h => exact (Change.follows (Follows.returns h)).reach

/-- The row ACCEPTANCE (R118). -/
theorem execAcceptance_reach (k : ChannelId) : ∃ t, execAcceptance k s = .next t ∧ Reach s t := by
  refine ⟨_, rfl, ite_reach (fun _ => takeArm_reach s k) fun _ => ?_⟩
  split
  · exact Reach.refl s
  · next h =>
    refine ite_reach (fun hd => ?_) fun _ => Reach.refl s
    rw [State.isDue, Bool.and_eq_true] at hd
    exact acceptEdge_reach h hd.1 _

/-- A commit on the selected channel (R121). -/
theorem commitChannel_reach (s : State) (x : BitVec 48) : Reach s (s.commitChannel x) := by
  unfold State.commitChannel
  dsimp only
  have hkept : ((s.channel s.selectedChannel).configured x).filter = (s.channel s.selectedChannel).filter := rfl
  split
  · next l h =>
    rw [hkept] at h
    have := Change.configured (c := (s.channel s.selectedChannel).configured x) rfl (Responds.rests h)
    rw [← h] at this
    exact this.reach
  · next l a b h =>
    rw [hkept] at h
    refine ite_reach (fun _ => ?_) fun hon => ?_
    · exact (Change.configured (c := (s.channel s.selectedChannel).configured x) rfl Responds.abandons).reach
    refine ite_reach (fun hlen => ?_) fun _ => ?_
    · have := Change.configured (c := (s.channel s.selectedChannel).configured x) rfl (Responds.keeps h hon hlen)
      rw [← h] at this
      exact this.reach
    · have hmoved := (Change.configured (c := (s.channel s.selectedChannel).configured x) rfl
        (Responds.moves h hon)).reach
      refine ite_reach (fun hd => hmoved.trans ?_) fun _ => hmoved
      rw [State.isDue, Bool.and_eq_true] at hd
      exact acceptEdge_reach (by rw [State.setChannel_channel_self]) hd.1 a

/-- A write of the highest byte of the channel configuration window. -/
theorem writeCapConfigTop_reach (s : State) (v : Byte) : Reach s (s.writeCapConfigTop v) :=
  (Change.window _).reach.trans (commitChannel_reach _ _)

end Edges

end Sys2Proof.Machine
end

section
/-! The bounds of one line, mode by mode, and what keeps them (03). -/

namespace Sys2Proof.Machine

/-! ### The bounds by mode (R55, R57) -/

/-- What the pattern buffers keep (R65, R66). -/
def PatternsSound (current : Pattern) (next : Option Pattern) : Prop :=
  (next.isSome = true → current.count ≠ 0) ∧ current.count ≤ 32 ∧ ∀ p, next = some p → 1 ≤ p.count ∧ p.count ≤ 32

/-- A line at a level without a pulse, its guard count 0. -/
def Line.AtRest (l : Line) (level : Level) (driven : Bool) : Prop :=
  l.level = level ∧ l.driven = driven ∧ l.pulse = none ∧ l.guardCount = 0

/-- What a NORMAL line keeps: driven ACTIVE its guard count is below the limit; otherwise it is at rest (R62, R68). -/
def Line.NormalSound (l : Line) : Prop :=
  (l.driven = true ∧ l.level = .active ∧ (l.config.guardLimit ≠ 0 → l.guardCount.toNat < l.config.guardLimit.toNat))
    ∨ l.AtRest .inactive l.driven

section Modes
variable {l : Line} {holdnLow : Bool}

theorem guarded_eq_true_iff : l.guarded = true ↔ l.mode = .normal ∧ l.driven = true ∧ l.level = .active := by
  simp [Line.guarded, and_assoc]

theorem guarded_eq_false (h : l.mode ≠ .normal) : l.guarded = false := by
  simp [Line.guarded, h]

theorem lineSound_off_iff (hm : l.mode = .off) :
    LineSound l holdnLow ↔ l.config.enabled = false ∧ l.AtRest .inactive false ∧ PatternsSound l.current l.next := by
  simp [LineSound, Line.AtRest, PatternsSound, hm, guarded_eq_false]
  tauto

theorem lineSound_tripped_iff (hm : l.mode = .tripped) :
    LineSound l holdnLow ↔ l.config.enabled = true ∧ holdnLow = false ∧ l.AtRest .inactive true
      ∧ PatternsSound l.current l.next := by
  simp [LineSound, Line.AtRest, PatternsSound, hm, guarded_eq_false]
  grind

theorem lineSound_forced_iff {held : HeldMode} (hm : l.mode = .forced held) :
    LineSound l holdnLow ↔ l.config.enabled = true ∧ holdnLow = true
      ∧ l.AtRest l.config.safe.level l.config.safe.driven ∧ PatternsSound l.current l.next := by
  have hfloat : l.config.safe.driven = false → l.config.safe.level = .inactive := by
    cases l.config.safe <;> simp [SafeLevel.driven, SafeLevel.level]
  simp [LineSound, Line.AtRest, PatternsSound, hm, guarded_eq_false]
  grind

theorem lineSound_normal_iff (hm : l.mode = .normal) :
    LineSound l holdnLow ↔ l.config.enabled = true ∧ holdnLow = false ∧ l.NormalSound
      ∧ PatternsSound l.current l.next := by
  simp [LineSound, Line.NormalSound, Line.AtRest, PatternsSound, hm, Line.guarded]
  cases l.driven <;> cases l.level <;> simp <;> tauto

/-- A line whose record differs in the pattern buffers alone keeps its bounds where the buffers have theirs. -/
theorem LineSound.withPatterns (h : LineSound l holdnLow) {current : Pattern} {next : Option Pattern}
    (hp : PatternsSound current next) : LineSound { l with current := current, next := next } holdnLow := by
  obtain ⟨h1, h2, h3, h4, h5, h6, h7, h8, -, -, -, h12, h13⟩ := h
  obtain ⟨hp1, hp2, hp3⟩ := hp
  exact ⟨h1, h2, h3, h4, h5, h6, h7, h8, hp1, hp2, hp3, h12, h13⟩

theorem LineSound.patterns (h : LineSound l holdnLow) : PatternsSound l.current l.next := by
  obtain ⟨-, -, -, -, -, -, -, -, h9, h10, h11, -, -⟩ := h
  exact ⟨h9, h10, h11⟩

end Modes

/-! ### Actions and releases (R60 to R65) -/

section Actions
variable {l : Line} {holdnLow : Bool}

theorem patternsSound_drained : PatternsSound Pattern.drained none := ⟨nofun, Nat.zero_le _, nofun⟩

/-- An action that sets a level keeps the bounds of a NORMAL line (R60). -/
theorem NormalSound.takeLevel (h : l.NormalSound) (level : Level) : (l.takeLevel level).NormalSound := by
  cases level with
  | inactive => exact .inr ⟨rfl, rfl, rfl, by simp [Line.takeLevel]⟩
  | active =>
    refine .inl ⟨rfl, rfl, fun hlimit => ?_⟩
    rcases h with ⟨hd, hl, hc⟩ | ⟨hl, -, -, -⟩
    · simpa [Line.takeLevel, hd, hl] using hc hlimit
    · have : 0 < l.config.guardLimit.toNat := Nat.pos_of_ne_zero fun h0 => hlimit (BitVec.eq_of_toNat_eq h0)
      simpa [Line.takeLevel, hl] using this

/-- The buffers after a SHIFT (R65). -/
theorem PatternsSound.takeBit (h : PatternsSound l.current l.next) :
    PatternsSound l.takeBit.current l.takeBit.next := by
  obtain ⟨h1, h2, h3⟩ := h
  unfold Line.takeBit
  split
  · split
    · next p hp => exact ⟨nofun, (h3 p hp).2, nofun⟩
    · next hp => exact ⟨by simp [hp], Nat.zero_le _, by simp [hp]⟩
  · next hone => exact ⟨fun hn => by have := h1 hn; show l.current.count - 1 ≠ 0; omega, by
      show l.current.count - 1 ≤ 32; omega, h3⟩

/-- The buffers are all that a SHIFT's taking of a bit changes (R65). -/
theorem takeBit_eq (l : Line) : l.takeBit = { l with current := l.takeBit.current, next := l.takeBit.next } := by
  unfold Line.takeBit
  split
  · split <;> rfl
  · rfl

theorem LineSound.takeBit (h : LineSound l holdnLow) : LineSound l.takeBit holdnLow := by
  rw [takeBit_eq]
  exact h.withPatterns h.patterns.takeBit

theorem LineSound.takeLevel (h : LineSound l holdnLow) (hm : l.mode = .normal) (level : Level) :
    LineSound (l.takeLevel level) holdnLow := by
  obtain ⟨he, hh, hn, hp⟩ := (lineSound_normal_iff hm).1 h
  exact (lineSound_normal_iff (l := l.takeLevel level) hm).2 ⟨he, hh, NormalSound.takeLevel hn level, hp⟩

/-- An action keeps the bounds of its line (R60 to R62, R65). -/
theorem LineSound.act (h : LineSound l holdnLow) (a : Action) (slot : SlotId) (w : BitVec 16) (t : Tick) :
    LineSound (l.act a slot w t).line holdnLow := by
  by_cases hm : l.mode = .normal
  · simp only [Line.act, hm]
    cases a with
    | set | clear | toggle => exact h.takeLevel hm _
    | pulse =>
      obtain ⟨he, hh, hn, hp⟩ := (lineSound_normal_iff (l := l.takeLevel .active) hm).1 (h.takeLevel hm .active)
      rcases hn with hn | ⟨hl, -⟩
      · exact (lineSound_normal_iff
          (l := { l.takeLevel .active with pulse := some ⟨slot, t + w.setWidth 32⟩ }) hm).2 ⟨he, hh, .inl hn, hp⟩
      · exact nomatch hl
    | shift =>
      simp only [Line.shift]
      split
      · exact h
      · exact (h.takeLevel hm _).takeBit
    | notify => exact h
  · rw [Line.act_blocked hm]
    exact h

/-- No action reaches the configuration. -/
@[simp] theorem act_config (a : Action) (slot : SlotId) (w : BitVec 16) (t : Tick) :
    (l.act a slot w t).line.config = l.config := by
  by_cases hm : l.mode = .normal
  · simp only [Line.act, hm]
    cases a with
    | shift =>
      simp only [Line.shift]
      split
      · rfl
      · rw [takeBit_eq]; rfl
    | _ => rfl
  · rw [Line.act_blocked hm]

/-- A pulse stands on a NORMAL line alone (R62). -/
theorem LineSound.normal_of_pulse (h : LineSound l holdnLow) (hp : l.pulse.isSome = true) : l.mode = .normal := by
  obtain ⟨-, -, -, -, h5, -⟩ := h
  exact (h5 hp).1

/-- The release of a pulse (R63). -/
theorem LineSound.released (h : LineSound l holdnLow) (hp : l.pulse.isSome = true) : LineSound l.released holdnLow := by
  have hm := h.normal_of_pulse hp
  obtain ⟨he, hh, -, hpat⟩ := (lineSound_normal_iff hm).1 h
  exact (lineSound_normal_iff (l := l.released) hm).2 ⟨he, hh, .inr ⟨rfl, rfl, rfl, rfl⟩, hpat⟩

/-- The shift of a release time at a load of T (R64). -/
theorem LineSound.shiftRelease (h : LineSound l holdnLow) (d : Tick) : LineSound (l.shiftRelease d) holdnLow := by
  obtain ⟨h1, h2, h3, h4, h5, hrest⟩ := h
  exact ⟨h1, h2, h3, h4, fun hp => h5 (by simpa [Line.shiftRelease] using hp), hrest⟩

end Actions

/-! ### The guard, HOLDN and rest (R68 to R78) -/

section Rows
variable {l : Line} {holdnLow : Bool}

/-- A tripped line (R69). -/
theorem LineSound.tripped (h : LineSound l holdnLow) (hm : l.mode = .normal) : LineSound l.tripped holdnLow := by
  obtain ⟨he, hh, -, hp⟩ := (lineSound_normal_iff hm).1 h
  exact (lineSound_tripped_iff (l := l.tripped) rfl).2 ⟨he, hh, ⟨rfl, rfl, rfl, rfl⟩, hp⟩

/-- A guard tick keeps the count below the limit, or trips (R68, R69). -/
theorem LineSound.guardTick (h : LineSound l holdnLow) : LineSound l.guardTick holdnLow := by
  unfold Line.guardTick
  split
  · next ht =>
    simp only [Line.guardTrips, Bool.and_eq_true] at ht
    exact h.tripped (guarded_eq_true_iff.1 ht.1.1).1
  · next ht =>
    split
    · next hg =>
      obtain ⟨hm, hd, hl⟩ := guarded_eq_true_iff.1 hg
      obtain ⟨he, hh, hn, hp⟩ := (lineSound_normal_iff hm).1 h
      refine (lineSound_normal_iff (l := { l with guardCount := l.nextGuardCount }) hm).2
        ⟨he, hh, .inl ⟨hd, hl, fun hlimit => ?_⟩, hp⟩
      have hcount : l.guardCount.toNat < l.config.guardLimit.toNat := by
        rcases hn with ⟨-, -, hc⟩ | ⟨hl', -⟩
        · exact hc hlimit
        · rw [hl] at hl'; exact nomatch hl'
      have hne : l.nextGuardCount ≠ l.config.guardLimit := fun he => ht (by
        simpa [Line.guardTrips, hg, he] using hlimit)
      have hnat : l.nextGuardCount.toNat ≠ l.config.guardLimit.toNat := fun he => hne (BitVec.eq_of_toNat_eq he)
      have hnext : l.nextGuardCount.toNat = min (l.guardCount.toNat + 1) 65535 := satAdd16_toNat _ 1
      show l.nextGuardCount.toNat < l.config.guardLimit.toNat
      omega
    · exact h

@[simp] theorem guardTick_config : l.guardTick.config = l.config := by
  unfold Line.guardTick
  split
  · rfl
  · split <;> rfl

/-- HOLDN falls (R72). -/
theorem LineSound.holdAsserted (h : LineSound l false) : LineSound l.holdAsserted true := by
  unfold Line.holdAsserted
  split
  · next hm =>
    obtain ⟨he, -, -, hp⟩ := (lineSound_normal_iff hm).1 h
    exact (lineSound_forced_iff rfl).2 ⟨he, rfl, ⟨rfl, rfl, rfl, rfl⟩, hp⟩
  · next hm =>
    obtain ⟨he, -, -, hp⟩ := (lineSound_tripped_iff hm).1 h
    exact (lineSound_forced_iff rfl).2 ⟨he, rfl, ⟨rfl, rfl, rfl, rfl⟩, hp⟩
  · next hm => exact (lineSound_off_iff hm).2 ((lineSound_off_iff hm).1 h)
  · next hm => exact nomatch ((lineSound_forced_iff hm).1 h).2.1

@[simp] theorem holdAsserted_config : l.holdAsserted.config = l.config := by
  unfold Line.holdAsserted
  split <;> rfl

/-- A NORMAL line at its safe level, without pulse, its guard count 0 (R73, R75, R78). -/
theorem normalSound_atSafeLevel (hp : l.pulse = none) (hc : l.guardCount = 0) : l.atSafeLevel.NormalSound := by
  have hlimit : l.config.guardLimit ≠ 0 → (0 : BitVec 16).toNat < l.config.guardLimit.toNat := fun h =>
    Nat.pos_of_ne_zero fun h0 => h (BitVec.eq_of_toNat_eq h0)
  cases hs : l.config.safe with
  | active => exact .inl ⟨by simp [Line.atSafeLevel, hs, SafeLevel.driven], by
      simp [Line.atSafeLevel, hs, SafeLevel.level], by simpa [Line.atSafeLevel, hc] using hlimit⟩
  | inactive | float => exact .inr ⟨by simp [Line.atSafeLevel, hs, SafeLevel.level], rfl, hp, hc⟩

/-- HOLDN rises (R73). -/
theorem LineSound.holdReleased (h : LineSound l true) : LineSound l.holdReleased false := by
  unfold Line.holdReleased
  split
  · next hm =>
    obtain ⟨he, -, ⟨-, -, hpulse, -⟩, hp⟩ := (lineSound_forced_iff hm).1 h
    exact (lineSound_normal_iff rfl).2 ⟨he, rfl,
      normalSound_atSafeLevel (l := { l with mode := .normal, guardCount := 0 }) hpulse rfl, hp⟩
  · next hm =>
    obtain ⟨he, -, ⟨-, -, hpulse, -⟩, hp⟩ := (lineSound_forced_iff hm).1 h
    exact (lineSound_tripped_iff rfl).2 ⟨he, rfl, ⟨rfl, rfl, hpulse, rfl⟩, hp⟩
  · next hm => exact (lineSound_off_iff hm).2 ((lineSound_off_iff hm).1 h)
  · next hm => exact nomatch ((lineSound_normal_iff hm).1 h).2.1
  · next hm => exact nomatch ((lineSound_tripped_iff hm).1 h).2.1

@[simp] theorem holdReleased_config : l.holdReleased.config = l.config := by
  unfold Line.holdReleased
  split <;> rfl

theorem LineSound.clearPatterns (h : LineSound l holdnLow) : LineSound l.clearPatterns holdnLow :=
  h.withPatterns patternsSound_drained

/-- A NORMAL line put to rest (R75). -/
theorem LineSound.safed (h : LineSound l holdnLow) (hm : l.mode = .normal) : LineSound l.safed holdnLow := by
  obtain ⟨he, hh, -, -⟩ := (lineSound_normal_iff hm).1 h
  have hrest : l.safed.NormalSound := normalSound_atSafeLevel (l := Line.clearPatterns _) rfl rfl
  exact (lineSound_normal_iff (l := l.safed) hm).2 ⟨he, hh, hrest, patternsSound_drained⟩

/-- SAFE's visit (R75). -/
theorem LineSound.safeVisit (h : LineSound l holdnLow) : LineSound l.safeVisit holdnLow := by
  unfold Line.safeVisit
  split
  · next hm => exact h.safed hm
  all_goals exact h

@[simp] theorem safeVisit_config : l.safeVisit.config = l.config := by
  unfold Line.safeVisit
  split <;> rfl

/-- A line at SOFT_RESET (R78). -/
theorem LineSound.softReset (h : LineSound l holdnLow) : LineSound l.softReset holdnLow := by
  unfold Line.softReset
  split
  · next hm => exact h.safed hm
  all_goals exact h.clearPatterns

@[simp] theorem softReset_config : l.softReset.config = l.config := by
  unfold Line.softReset
  split <;> rfl

/-- CLEAR_TRIP on a TRIPPED line (R71). -/
theorem LineSound.tripCleared (h : LineSound l holdnLow) (hm : l.mode = .tripped) :
    LineSound { l with mode := .normal, guardCount := 0 } holdnLow := by
  obtain ⟨he, hh, ⟨hl, -, hp, -⟩, hpat⟩ := (lineSound_tripped_iff hm).1 h
  exact (lineSound_normal_iff rfl).2 ⟨he, hh, .inr ⟨hl, rfl, hp, rfl⟩, hpat⟩

/-- A pattern into the empty current buffer (R66). -/
theorem LineSound.loadCurrent (h : LineSound l holdnLow) (hn : l.next.isSome = false) {p : Pattern}
    (hp : p.count ≤ 32) : LineSound { l with current := p } holdnLow :=
  h.withPatterns (next := l.next) ⟨by simp [hn], hp, fun q hq => by simp [hq] at hn⟩

/-- A pattern into the next buffer (R66). -/
theorem LineSound.loadNext (h : LineSound l holdnLow) (hc : l.current.count ≠ 0) {p : Pattern}
    (hp : 1 ≤ p.count ∧ p.count ≤ 32) : LineSound { l with next := some p } holdnLow := by
  obtain ⟨-, h2, -⟩ := h.patterns
  exact h.withPatterns (current := l.current) ⟨fun _ => hc, h2, fun q hq => by cases hq; exact hp⟩

end Rows

/-! ### The configuration commit (R58) -/

section Commit
variable {l : Line} {holdnLow : Bool} {new : LineConfig}

/-- A commit keeps the enabled field: the configuration alone is taken (R58). -/
theorem commitEnable_same (he : l.config.enabled = new.enabled) :
    l.commitEnable new holdnLow = { l with config := new } := by
  cases hn : new.enabled <;> simp [Line.commitEnable, he, hn]

/-- A commit that enables a line (R58). -/
theorem commitEnable_on (ho : l.config.enabled = false) (hn : new.enabled = true) :
    l.commitEnable new holdnLow =
      if holdnLow then { { l with config := new } with mode := .forced .normal, guardCount := 0 }.atSafeLevel
      else { l with config := new, mode := .normal, level := .inactive, driven := true, guardCount := 0 } := by
  simp [Line.commitEnable, ho, hn]

/-- A commit that disables a line (R58). -/
theorem commitEnable_off (ho : l.config.enabled = true) (hn : new.enabled = false) :
    l.commitEnable new holdnLow =
      { l with config := new, mode := .off, level := .inactive, driven := false, pulse := none, guardCount := 0 } := by
  simp [Line.commitEnable, ho, hn]

/-- The new safe level is no matter to a line that is not FORCED (R58). -/
theorem commitSafe_notForced (h : ∀ held, l.mode ≠ .forced held) (old : SafeLevel) : l.commitSafe old = l := by
  unfold Line.commitSafe
  split
  · next held hm => exact absurd hm (h held)
  all_goals rfl

/-- A line that the guard does not count cannot trip at a commit (R58). -/
theorem commitTrips_notGuarded (h : l.guarded = false) (old : BitVec 16) : l.commitTrips old = false := by
  simp [Line.commitTrips, h]

/-- A commit that trips nothing. -/
theorem commit_quiet (h : ((l.commitEnable new holdnLow).commitSafe l.config.safe).guarded = false) :
    l.commit new holdnLow = ((l.commitEnable new holdnLow).commitSafe l.config.safe, false) := by
  simp [Line.commit, commitTrips_notGuarded h]

/-- A FORCED line stands at its safe level after a commit as before it (R58). -/
theorem commitSafe_forced {held : HeldMode} (hm : l.mode = .forced held) {old : SafeLevel}
    (h : l.AtRest old.level old.driven) : (l.commitSafe old).AtRest l.config.safe.level l.config.safe.driven := by
  obtain ⟨hl, hd, hp, hc⟩ := h
  simp only [Line.commitSafe, hm]
  split
  · exact ⟨rfl, rfl, hp, hc⟩
  · next hs =>
    have hs : l.config.safe = old := by simpa using hs
    exact ⟨hs ▸ hl, hs ▸ hd, hp, hc⟩

/-- The new safe level reaches the level and the drive alone. -/
theorem commitSafe_eq (l : Line) (old : SafeLevel) :
    l.commitSafe old = { l with level := (l.commitSafe old).level, driven := (l.commitSafe old).driven } := by
  unfold Line.commitSafe
  split
  · split <;> rfl
  all_goals rfl

/-- A line at its safe level stays there. -/
theorem commitSafe_atSafeLevel (l : Line) (old : SafeLevel) : l.atSafeLevel.commitSafe old = l.atSafeLevel := by
  unfold Line.commitSafe
  split
  · split <;> rfl
  all_goals rfl

/-- A FORCED line after a commit that leaves it so (R58). -/
theorem LineSound.commitSafe {held : HeldMode} (hm : l.mode = .forced held) (he : l.config.enabled = true)
    {old : SafeLevel} (h : l.AtRest old.level old.driven) (hp : PatternsSound l.current l.next) :
    LineSound (l.commitSafe old) true := by
  have hrest := commitSafe_forced hm h
  rw [commitSafe_eq] at hrest ⊢
  exact (lineSound_forced_iff
    (l := { l with level := (l.commitSafe old).level, driven := (l.commitSafe old).driven }) hm).2 ⟨he, rfl, hrest, hp⟩

/-- A line that takes its new configuration without another response (R58). -/
theorem LineSound.reconfigured (h : LineSound l holdnLow) (he : l.config.enabled = new.enabled)
    (hm : ∀ held, l.mode ≠ .forced held)
    (hlimit : l.guarded = true → new.guardLimit ≠ 0 → l.guardCount.toNat < new.guardLimit.toNat) :
    LineSound { l with config := new } holdnLow := by
  obtain ⟨h1, h2, h3, -, h5, h6, h7, -, hrest⟩ := h
  exact ⟨he ▸ h1, h2, h3, fun held hf => absurd hf (hm held), h5, h6, h7, hlimit, hrest⟩

/-- A guarded line that a commit does not trip has its count below the new limit (R58). -/
theorem count_lt_of_not_commitTrips (h : LineSound l holdnLow) (hg : l.guarded = true) (h0 : new.guardLimit ≠ 0)
    (ht : Line.commitTrips { l with config := new } l.config.guardLimit = false) :
    l.guardCount.toNat < new.guardLimit.toNat := by
  obtain ⟨-, -, -, -, -, -, -, h8, -⟩ := h
  by_cases hsame : new.guardLimit = l.config.guardLimit
  · exact hsame ▸ h8 hg (hsame ▸ h0)
  · have hg' : Line.guarded { l with config := new } = true := hg
    have ht : ¬ new.guardLimit = 0#16 → l.guardCount.toNat < new.guardLimit.toNat := by
      simpa [Line.commitTrips, hg', hsame] using ht
    exact ht h0

/-- A commit that keeps the enabled field (R58). -/
theorem LineSound.commit_same (h : LineSound l holdnLow) (he : l.config.enabled = new.enabled) :
    LineSound (l.commit new holdnLow).1 holdnLow := by
  by_cases hforced : ∃ held, l.mode = .forced held
  · obtain ⟨held, hm⟩ := hforced
    obtain ⟨hon, rfl, hrest, hp⟩ := (lineSound_forced_iff hm).1 h
    have hsafe := LineSound.commitSafe (l := { l with config := new }) hm (he ▸ hon) hrest hp
    have hguard : (Line.commitSafe { l with config := new } l.config.safe).guarded = false := by
      rw [commitSafe_eq]
      exact guarded_eq_false fun hn => nomatch hm.symm.trans hn
    rw [commit_quiet (by rwa [commitEnable_same he]), commitEnable_same he]
    exact hsafe
  · have hforced : ∀ held, l.mode ≠ .forced held := fun held hm => hforced ⟨held, hm⟩
    rw [Line.commit, commitEnable_same he, commitSafe_notForced (l := { l with config := new }) hforced]
    cases ht : Line.commitTrips { l with config := new } l.config.guardLimit with
    | false =>
      exact h.reconfigured he hforced fun hg h0 => count_lt_of_not_commitTrips h hg h0 ht
    | true =>
      have hg : l.guarded = true := by
        simp only [Line.commitTrips, Bool.and_eq_true] at ht
        exact ht.1.2
      have hm := (guarded_eq_true_iff.1 hg).1
      obtain ⟨hon, hh, -, hp⟩ := (lineSound_normal_iff hm).1 h
      exact (lineSound_tripped_iff (l := Line.tripped { l with config := new }) rfl).2
        ⟨he ▸ hon, hh, ⟨rfl, rfl, rfl, rfl⟩, hp⟩

/-- A commit that enables an OFF line (R58). -/
theorem LineSound.commit_on (h : LineSound l holdnLow) (ho : l.config.enabled = false) (hn : new.enabled = true) :
    LineSound (l.commit new holdnLow).1 holdnLow := by
  have hm : l.mode = .off := by
    obtain ⟨h1, -⟩ := h
    by_contra hne
    exact Bool.false_ne_true (ho.symm.trans (h1.2 hne))
  obtain ⟨-, ⟨-, -, hpulse, -⟩, hp⟩ := (lineSound_off_iff hm).1 h
  cases holdnLow with
  | false =>
    have henable := commitEnable_on (holdnLow := false) ho hn
    rw [if_neg Bool.false_ne_true] at henable
    have hsafe : ∀ old, (l.commitEnable new false).commitSafe old = l.commitEnable new false :=
      fun old => commitSafe_notForced (by rw [henable]; exact nofun) old
    rw [commit_quiet (by rw [hsafe, henable]; rfl), hsafe, henable]
    exact (lineSound_normal_iff rfl).2 ⟨hn, rfl, .inr ⟨rfl, rfl, hpulse, rfl⟩, hp⟩
  | true =>
    have henable := commitEnable_on (holdnLow := true) ho hn
    rw [if_pos rfl] at henable
    rw [commit_quiet (by rw [henable, commitSafe_atSafeLevel]; rfl), henable, commitSafe_atSafeLevel]
    exact (lineSound_forced_iff rfl).2 ⟨hn, rfl, ⟨rfl, rfl, hpulse, rfl⟩, hp⟩

/-- A commit that disables a line (R58). -/
theorem LineSound.commit_off (h : LineSound l holdnLow) (ho : l.config.enabled = true) (hn : new.enabled = false) :
    LineSound (l.commit new holdnLow).1 holdnLow := by
  have henable := commitEnable_off (holdnLow := holdnLow) ho hn
  have hsafe : ∀ old, (l.commitEnable new holdnLow).commitSafe old = l.commitEnable new holdnLow :=
    fun old => commitSafe_notForced (by rw [henable]; exact nofun) old
  rw [commit_quiet (by rw [hsafe, henable]; rfl), hsafe, henable]
  exact (lineSound_off_iff rfl).2 ⟨hn, ⟨rfl, rfl, rfl, rfl⟩, h.patterns⟩

/-- A commit keeps the bounds of its line, tripping it where its count has reached the new limit (R58). -/
theorem LineSound.commit (h : LineSound l holdnLow) (new : LineConfig) :
    LineSound (l.commit new holdnLow).1 holdnLow := by
  cases ho : l.config.enabled <;> cases hn : new.enabled
  · exact h.commit_same (ho.trans hn.symm)
  · exact h.commit_on ho hn
  · exact h.commit_off ho hn
  · exact h.commit_same (ho.trans hn.symm)

end Commit

end Sys2Proof.Machine
end

section
/-! Every row is made of the changes (all chapters): the commands, the walks, the rows of the pins and the clocks, the register
window; then every row, and every step. -/

namespace Sys2Proof.Machine

/-! ### Slot records outside of the list (R8, R11, R12, R20, R21) -/

/-- A descriptor that LOAD takes is sound (R12). -/
theorem descriptorSound_of_descriptorOf {r : Staging} {d : Descriptor} (h : descriptorOf r = some d) :
    DescriptorSound d := by
  have hpass : PassesR12 r := by
    by_contra hfail
    rw [descriptorOf_eq_none hfail] at h
    cases h
  obtain ⟨a, l, m, c, hread⟩ := readsAs_of_passesR12 hpass
  have hchecks := (passesR12_iff_of_readsAs hread).1 hpass
  obtain rfl := Option.some.inj (h.symm.trans ((descriptorOf_of_readsAs hread).1 hpass))
  simp only [Bool.and_eq_true, bne_iff_ne, Bool.or_eq_true] at hchecks
  obtain ⟨⟨⟨hline, hwidth⟩, hpulse⟩, hchain⟩ := hchecks
  refine ⟨hline, hwidth, hpulse, ?_⟩
  cases c with
  | none => simp [descriptorFrom]
  | some i => simpa [descriptorFrom] using hchain

theorem slotSound_cleared : SlotSound Slot.cleared :=
  ⟨fun _ => rfl, fun h => absurd rfl h, fun h => by (rcases h with h | h <;> cases h),
    fun h => by (rcases h with h | h <;> cases h), nofun⟩

/-- A LOADED record is sound where its descriptor is (R7, R12). -/
theorem slotSound_loaded {r : Slot} (hs : r.state = .loaded) (hd : DescriptorSound r.desc) : SlotSound r := by
  have hnot : ¬ r.armed := by simp [Slot.armed, hs]
  exact ⟨by simp [hs], fun _ => hd, fun h => absurd h hnot, fun h => absurd h hnot, by simp [hs]⟩

theorem SlotSound.desc {r : Slot} (h : SlotSound r) (hs : r.state ≠ .empty) : DescriptorSound r.desc := h.2.1 hs

/-! ### The commands (R141) -/

section Commands
variable {s : State}

/-- A command in hand whose owner has not said otherwise is plain work. -/
theorem plainWork_of_finished {r : ResultCode} (h : s.cmd.inHand = some (.finished r)) : s.PlainWork := ⟨_, h, rfl⟩

/-- The owner answers. -/
theorem finish_reach (h : s.PlainWork) (r : ResultCode) : Reach s (s.finish r) := (Change.work _ h rfl).reach

/-- A change of another unit, and then the owner's answer. -/
theorem Change.finish_reach {t : State} (hc : Change s t) (h : s.PlainWork) (hcmd : t.cmd = s.cmd) (r : ResultCode) :
    Reach s (t.finish r) := by
  refine hc.reach.trans (Machine.finish_reach ?_ r)
  rwa [State.PlainWork, hcmd]

/-- A chain of owner's changes that leaves the Command Unit alone, and then the owner's answer. -/
theorem Reach.finish {t : State} (hc : Reach s t) (h : s.PlainWork) (hcmd : t.cmd = s.cmd) (r : ResultCode) :
    Reach s (t.finish r) := by
  refine hc.trans (Machine.finish_reach ?_ r)
  rwa [State.PlainWork, hcmd]

@[simp] theorem claim_cmd (s : State) (i : SlotId) : (s.claim i).cmd = s.cmd := by
  obtain ⟨_, _, _, _, _, h⟩ := claim_frame s i; rw [h]

/-- A slot command is refused, or claims its slot and acts on it (R9, R10). -/
theorem slotCommand_reach {act : SlotId → State → State} (h : s.PlainWork)
    (hact : ∀ i u, u.PlainWork → NotFired u i → Reach u (act i u)) : Reach s (slotCommand act s) := by
  unfold slotCommand
  split
  · exact finish_reach h _
  · next i _ =>
    refine (claim_fireReach s i).reach.trans (hact i _ ?_ (claim_notFired s i))
    rwa [State.PlainWork, claim_cmd]

theorem loadAt_reach (i : SlotId) (h : s.PlainWork) : Reach s (loadAt i s) := by
  have hstores : (s.slot i).state = .empty ∨ (s.slot i).state = .loaded → ∀ d,
      descriptorOf s.cmd.captured.staging = some d →
      Reach s ((s.setSlot i { s.slot i with desc := d, state := .loaded }).finish .ok) := fun hs d hd =>
    (Change.slot _ h hs (.inr rfl) fun _ => slotSound_loaded rfl (descriptorSound_of_descriptorOf hd)).finish_reach h
      rfl _
  unfold loadAt
  split
  · exact finish_reach h _
  · exact finish_reach h _
  all_goals
    next hs =>
    split
    · exact finish_reach h _
    · next d hd => exact hstores (by simp [hs]) d hd

/-- Arming leaves the Command Unit alone. -/
@[simp] theorem armSlot_cmd (s : State) (i : SlotId) (due ref : Tick) : (s.armSlot i due ref).cmd = s.cmd := by
  obtain ⟨_, _, h, -⟩ := placeSlot_frame s i (s.slot i).initialised due ref
  rw [State.armSlot, h]

theorem armAt_reach (i : SlotId) (h : s.PlainWork) : Reach s (armAt i s) := by
  unfold armAt
  split
  · exact finish_reach h _
  · exact finish_reach h _
  · exact finish_reach h _
  · next hs =>
    split
    · exact finish_reach h _
    · split
      · exact finish_reach h _
      · refine ite_reach (fun _ => finish_reach h _) fun _ => ?_
        exact Change.finish_reach (.fire (.arm _ _ hs)) h (armSlot_cmd s i _ _) _

/-- Disarming leaves the Command Unit alone. -/
@[simp] theorem disarmSlot_cmd (s : State) (i : SlotId) : (s.disarmSlot i).cmd = s.cmd := by
  unfold State.disarmSlot; split <;> rfl

theorem disarmAt_reach (i : SlotId) (h : s.PlainWork) (hf : NotFired s i) : Reach s (disarmAt i s) := by
  unfold disarmAt
  split
  · exact finish_reach h _
  · exact finish_reach h _
  all_goals exact Change.finish_reach (Change.disarm hf) h (disarmSlot_cmd s i) _

theorem releaseAt_reach (i : SlotId) (h : s.PlainWork) : Reach s (releaseAt i s) := by
  unfold releaseAt
  split
  · exact finish_reach h _
  · exact finish_reach h _
  · exact finish_reach h _
  · next hs => exact Change.finish_reach (Change.slot _ h (.inr hs) (.inl rfl) fun _ => slotSound_cleared) h rfl _

/-- A remaining time that RETIME takes lies below 2^31 (R22). -/
theorem movedRemaining_lt {remaining delta : BitVec 32} {x : Tick} (h : movedRemaining remaining delta = some x) :
    x.toNat < 2 ^ 31 := by
  simp only [movedRemaining] at h
  split at h
  · next hm =>
    cases h
    rw [BitVec.toNat_ofInt]
    omega
  · cases h

theorem retimeAt_reach (i : SlotId) (h : s.PlainWork) (hf : NotFired s i) : Reach s (retimeAt i s) := by
  unfold retimeAt
  dsimp only
  split
  · exact finish_reach h _
  · next hs =>
    refine Change.finish_reach (Change.slot
      { s.slot i with desc := { (s.slot i).desc with time := (s.slot i).desc.time + s.argWord1 } }
      h (.inr hs) (.inr hs) fun hsound => ?_) h rfl _
    exact slotSound_loaded hs (hsound.desc (by simp [hs]))
  · next hs => exact Change.finish_reach (Change.retime _ hf hs) h rfl _
  · next hs =>
    split
    · exact finish_reach h _
    · next hx => exact Change.finish_reach (Change.remaining _ hs (movedRemaining_lt hx)) h rfl _

theorem queryAt_reach (i : SlotId) (h : s.PlainWork) : Reach s (queryAt i s) :=
  (Change.cmd { s.cmd with readback := s.slot i } rfl).reach.trans
    (finish_reach (s := s.withCmd { s.cmd with readback := s.slot i }) h _)

theorem suspendGroupCommand_reach (h : s.PlainWork) : Reach s (suspendGroupCommand s) := by
  unfold suspendGroupCommand
  split
  · exact finish_reach h _
  · exact ite_reach (fun _ => finish_reach h _) fun _ => (Change.suspendGroup _ h).reach

theorem resumeGroupCommand_reach (h : s.PlainWork) : Reach s (resumeGroupCommand s) := by
  unfold resumeGroupCommand
  split
  · exact finish_reach h _
  · exact ite_reach (fun _ => (Change.resumeGroup _ h).reach) fun _ => finish_reach h _

theorem disarmGroupCommand_reach (h : s.PlainWork) : Reach s (disarmGroupCommand s) := by
  unfold disarmGroupCommand
  split
  · exact finish_reach h _
  · exact (Change.work _ h rfl).reach

theorem startCommand_reach (h : s.PlainWork) : Reach s (startCommand s) := by
  unfold startCommand
  refine ite_reach (fun _ => finish_reach h _) fun _ => ?_
  split
  · exact finish_reach h _
  · exact Change.finish_reach (Change.start _ h) h rfl _

/-- The Timebase stops, its trigger arms made before (R95). -/
theorem stopRunning_reach (s : State) : Reach s s.stopRunning :=
  (takeArms_reach s).trans (Change.stop (takeArms_noArms s)).reach

@[simp] theorem stopTimebase_cmd (s : State) : s.stopTimebase.cmd = s.cmd := rfl

@[simp] theorem stopRunning_cmd (s : State) : s.stopRunning.cmd = s.cmd := by
  rw [State.stopRunning, stopTimebase_cmd, takeArms_cmd]

theorem stopCommand_reach (h : s.PlainWork) : Reach s (stopCommand s) := by
  unfold stopCommand
  exact ite_reach (fun _ => (stopRunning_reach s).finish h (stopRunning_cmd s) _) fun _ => finish_reach h _

@[simp] theorem endFire_cmd (s : State) : s.endFire.cmd = s.cmd := runFire_cmd 5 s
@[simp] theorem endFire_timebase (s : State) : s.endFire.timebase = s.timebase := runFire_timebase 5 s

theorem settimeCommand_reach (h : s.PlainWork) : Reach s (settimeCommand s) := by
  unfold settimeCommand
  refine ite_reach (fun _ => finish_reach h _) fun hr => ?_
  split
  · exact finish_reach h _
  · exact Change.finish_reach (Change.settime _ _) h rfl _
  · refine (runFire_fireReach 5 s).reach.trans (Change.beginResort (s := s.endFire) _ _ ?_ ?_ ?_).reach
    · rwa [State.PlainWork, endFire_cmd]
    · rw [endFire_timebase]; simpa using hr
    · exact endFire_dispatcher s

theorem loadPatternCommand_reach (h : s.PlainWork) : Reach s (loadPatternCommand s) := by
  unfold loadPatternCommand
  split
  · exact finish_reach h _
  · next l _ =>
    split
    · exact finish_reach h _
    · next n hn =>
      have hn : 1 ≤ n ∧ n ≤ 32 := by
        simp only [lengthArg] at hn
        split at hn
        · next hb => cases hn; exact hb
        · cases hn
      refine ite_reach (fun _ => finish_reach h _) fun hnext => ite_reach (fun hc => ?_) fun hc => ?_
      · exact Change.finish_reach (Change.line { s.line l with current := ⟨s.argWord1, n⟩ }
          (fun hl => hl.loadCurrent (by simpa using hnext) hn.2) fun _ => rfl) h rfl _
      · exact Change.finish_reach (Change.line { s.line l with next := some ⟨s.argWord1, n⟩ }
          (fun hl => hl.loadNext hc hn) fun _ => rfl) h rfl _

theorem clearPatternCommand_reach (h : s.PlainWork) : Reach s (clearPatternCommand s) := by
  unfold clearPatternCommand
  split
  · exact finish_reach h _
  · exact Change.finish_reach (Change.line _ (fun hl => hl.clearPatterns) fun _ => rfl) h rfl _

theorem clearTripCommand_reach (h : s.PlainWork) : Reach s (clearTripCommand s) := by
  unfold clearTripCommand
  split
  · exact finish_reach h _
  · split
    · next hm => exact Change.finish_reach (Change.line _ (fun hl => hl.tripCleared hm) fun _ => rfl) h rfl _
    all_goals exact finish_reach h _

theorem lockLinesCommand_reach (h : s.PlainWork) : Reach s (lockLinesCommand s) := by
  unfold lockLinesCommand
  exact ite_reach (fun _ => finish_reach h _) fun _ => Change.finish_reach (Change.lineUnit { s.lineUnit with locked := true } rfl fun _ => rfl) h rfl _

theorem flushCaptureCommand_reach (h : s.PlainWork) : Reach s (flushCaptureCommand s) :=
  Change.finish_reach (Change.fifo { s.capture with fifo := [] } rfl fun ⟨_, hrest⟩ => ⟨Nat.zero_le _, hrest⟩) h rfl _

end Commands

/-! ### The Clock Unit (R108 to R115) -/

section Clocks
variable {s : State}

/-- A switch that is not pending is none. -/
theorem not_isPending_iff {x : SwitchState} : x.isPending = false ↔ x = .none := by
  cases x <;> simp [SwitchState.isPending]

/-- A request for EXT (R110). -/
theorem ClockSound.request {c : Clock} (h : ClockSound c) (hs : c.source = .int) :
    ClockSound { c with switching := .pendingExt 0, monitor := .confirming 0, gap := some 0 } := by
  obtain ⟨-, -, -, h4, -⟩ := h
  have hne : c.source ≠ .ext := by rw [hs]; exact nofun
  exact ⟨nofun, fun _ _ => ⟨0, by omega, rfl⟩, fun he => absurd he hne, h4, nofun, nofun⟩

/-- The source INT with no switch pending (R111, R113). -/
theorem ClockSound.toInt {c : Clock} (hs : c.switching = .none) (b : Bool) :
    ClockSound { c with source := .int, degraded := b, monitor := .idle, gap := none } :=
  ⟨fun _ _ => rfl, fun _ (hp : c.switching.isPending = true) => absurd hp (by rw [hs]; exact nofun), nofun,
    fun _ => rfl, fun _ => rfl, fun _ => rfl⟩

/-- A watched reference is the source, and no switch is pending (R108). -/
theorem ClockSound.of_watching {c : Clock} (h : ClockSound c) (hm : c.monitor = .watching) :
    c.source = .ext ∧ c.switching = .none := by
  obtain ⟨h1, h2, h3, -, -⟩ := h
  cases hs : c.source with
  | ext => exact ⟨rfl, (h3 hs).1⟩
  | int =>
    cases hp : c.switching.isPending with
    | false => rw [h1 hs (not_isPending_iff.1 hp)] at hm; exact nomatch hm
    | true => obtain ⟨n, -, hn⟩ := h2 hs hp; rw [hn] at hm; exact nomatch hm

/-- A switch is pending while edges are counted (R108). -/
theorem ClockSound.of_confirming {c : Clock} (h : ClockSound c) {n : Nat} (hm : c.monitor = .confirming n) :
    c.source = .int ∧ c.switching.isPending = true := by
  obtain ⟨h1, -, h3, -, -⟩ := h
  cases hs : c.source with
  | ext => rw [(h3 hs).2] at hm; exact nomatch hm
  | int =>
    cases hp : c.switching.isPending with
    | false => rw [h1 hs (not_isPending_iff.1 hp)] at hm; exact nomatch hm
    | true => exact ⟨rfl, rfl⟩

/-- An edge counted, or the count begun again (R108, R110). -/
theorem ClockSound.counted {c : Clock} (h : ClockSound c) {n m : Nat} (hm : c.monitor = .confirming n) (hlt : m < 64) :
    ClockSound { c with monitor := .confirming m, gap := some 0 } := by
  obtain ⟨hs, hp⟩ := h.of_confirming hm
  obtain ⟨-, -, -, h4, -⟩ := h
  have hne : c.source ≠ .ext := by rw [hs]; exact nofun
  exact ⟨fun _ (hn : c.switching = .none) => absurd hp (by rw [hn]; exact nofun), fun _ _ => ⟨m, hlt, rfl⟩,
    fun he => absurd he hne, h4, nofun, nofun⟩

/-- The gap begun again while the reference is watched (R108). -/
theorem ClockSound.gapRestarted {c : Clock} (h : ClockSound c) (hm : c.monitor = .watching) :
    ClockSound { c with gap := some 0 } := by
  obtain ⟨h1, h2, h3, h4, -⟩ := h
  exact ⟨h1, h2, h3, h4, nofun, fun (hi : c.monitor = .idle) => absurd hi (by rw [hm]; exact nofun)⟩

/-- The switch confirmed (R111). -/
theorem clockSound_confirmed : ClockSound ⟨.ext, .none, false, .watching, some 0⟩ :=
  ⟨nofun, nofun, fun _ => ⟨rfl, rfl⟩, nofun, nofun, nofun⟩

/-- A pending switch given up (R112, R115). -/
theorem ClockSound.abandonSwitch {c : Clock} (h : ClockSound c) : ClockSound c.abandonSwitch := by
  unfold Clock.abandonSwitch
  split
  · exact h
  · next hp =>
    obtain ⟨-, -, h3, h4, -⟩ := h
    have hs : c.source = .int := by
      cases hs : c.source with
      | int => rfl
      | ext => rw [(h3 hs).1] at hp; exact nomatch hp
    have hne : c.source ≠ .ext := by rw [hs]; exact nofun
    exact ⟨fun _ _ => rfl, nofun, fun he => absurd he hne, h4, fun _ => rfl, fun _ => rfl⟩

theorem switchClockCommand_reach (h : s.PlainWork) : Reach s (switchClockCommand s) := by
  unfold switchClockCommand
  split
  · exact finish_reach h _
  · next src _ =>
    refine ite_reach (fun _ => finish_reach h _) fun hp => ite_reach (fun _ => finish_reach h _) fun hne => ?_
    have hp : s.clock.switching = .none := not_isPending_iff.1 (by simpa using hp)
    cases src with
    | int =>
      refine Reach.finish ?_ h ?_ _
      · exact ((Change.clock _ fun _ => ClockSound.toInt hp false).reach.trans Change.handover.reach).trans
          (post_fireReach _ rfl).reach
      · rw [State.switchToInt, post_eq]; rfl
    | ext =>
      have hs : s.clock.source = .int := by
        cases hs : s.clock.source with
        | int => rfl
        | ext => exact absurd hs.symm hne
      exact Change.finish_reach (Change.clock _ fun hc => hc.request hs) h rfl _

theorem execRefclkEdge_reach : ∃ t, execRefclkEdge s = .next t ∧ Reach s t := by
  refine ⟨_, rfl, ?_⟩
  split
  · exact Reach.refl s
  · next n hm =>
    refine ite_reach (fun hlt => (Change.clock _ fun hc => hc.counted hm (by omega)).reach) fun _ => ?_
    exact ((Change.clock _ fun _ => clockSound_confirmed).reach.trans Change.handover.reach).trans
      (post_fireReach _ rfl).reach
  · next hm => exact (Change.clock _ fun hc => hc.gapRestarted hm).reach

theorem execGapTooLong_reach : ∃ t, execGapTooLong s = .next t ∧ Reach s t := by
  refine ⟨_, rfl, ?_⟩
  split
  · exact Reach.refl s
  · next n hm => exact (Change.clock _ fun hc => hc.counted hm (by omega)).reach
  · next hm =>
    exact ((Change.clock _ fun hc => ClockSound.toInt (hc.of_watching hm).2 true).reach.trans
      Change.handover.reach).trans (post_fireReach _ rfl).reach

theorem execSwitchTimeout_reach : ∃ t, execSwitchTimeout s = .next t ∧ Reach s t :=
  ⟨_, rfl, ite_reach (fun _ => (Change.clock _ fun hc => hc.abandonSwitch).reach.trans (post_fireReach _ rfl).reach)
    fun _ => Reach.refl s⟩

end Clocks

/-! ### SOFT_RESET (R150) -/

section SoftReset
variable {s : State}

/-- A stage of SOFT_RESET but the completion. -/
theorem resetStage_reach {stage : ResetStage} (h : s.cmd.inHand = some (.softReset stage)) (h10 : stage ≠ .completion) :
    Reach s (s.resetStage stage) := by
  by_cases h2 : stage = .endOfFire
  · subst h2
    refine (runFire_fireReach 5 s).reach.trans (Change.fireEnded (s := s.endFire) ?_ (endFire_dispatcher s)).reach
    rwa [endFire_cmd]
  · exact (Change.resetStage stage h h2 h10).reach

/-- The completion of SOFT_RESET. -/
theorem resetCompletion_reach (h : s.cmd.inHand = some (.softReset .completion)) :
    Reach s (s.resetStage .completion) := (Change.complete _ (.inr h) rfl).reach

/-- Any number of stages of SOFT_RESET. -/
theorem runReset_reach (n : Nat) (s : State) : Reach s (s.runReset n) := by
  induction n generalizing s with
  | zero => exact Reach.refl s
  | succ n ih =>
    unfold State.runReset
    split
    · next stage h =>
      by_cases h10 : stage = .completion
      · subst h10; exact (resetCompletion_reach h).trans (ih _)
      · exact (resetStage_reach h h10).trans (ih _)
    · exact Reach.refl s

theorem softResetCommand_reach (h : s.PlainWork) : Reach s (softResetCommand s) := by
  have hstop : Reach s s.resetStop ∧ s.resetStop.cmd = s.cmd ∧ s.resetStop.timebase.running = false := by
    unfold State.resetStop
    split
    · exact ⟨stopRunning_reach s, stopRunning_cmd s, rfl⟩
    · next hr => exact ⟨Reach.refl s, rfl, by simpa using hr⟩
  obtain ⟨hreach, hcmd, hr⟩ := hstop
  refine ((hreach.trans (Change.beginReset ?_ hr).reach).trans (runReset_reach _ _)).trans (Change.fire (.pauses _)).reach
  rwa [State.PlainWork, hcmd]

theorem execCommandCompletion_reach : ∃ t, execCommandCompletion s = .next t ∧ Reach s t := by
  refine ⟨_, rfl, ?_⟩
  split
  · next h =>
    exact (Change.complete _ (.inl (plainWork_of_finished h)) rfl).reach.trans (post_fireReach _ rfl).reach
  · next h => exact resetCompletion_reach h
  · exact (runReset_reach _ s).trans (Change.fire (.pauses _)).reach
  · exact Reach.refl s

end SoftReset

/-! ### Writes of CMD (R141, R143) -/

section CmdWrites
variable {s : State}

theorem advance_reach (s : State) : Reach s s.advance :=
  (Change.port { s.port with pointer := s.port.pointer + 1 } rfl (.inl rfl)).reach

/-- A byte that completes at an address, or none. -/
theorem writeAt_reach {a : Addr} {act : State → State} (h : Reach s (act s)) : Reach s (s.writeAt a act) :=
  ite_reach (fun _ => h.trans (advance_reach _)) fun _ => Reach.refl s

/-- A code written to CMD collides, or is taken and handed to its owner. -/
theorem writeCommand_reach (code : Byte) {owner : State → State} (h : ∀ u, u.PlainWork → Reach u (owner u)) :
    Reach s (s.writeCommand code owner) := by
  unfold State.writeCommand
  refine ite_reach (fun _ => (Change.cmd { s.cmd with collide := true } rfl).reach) fun hb => ?_
  have hnone : s.cmd.inHand = none := by simpa [State.busy] using hb
  exact (Change.taken code hnone).reach.trans (h _ ⟨_, rfl, rfl⟩)

theorem writeCmdByte_reach (code : Byte) {owner : State → State} (h : ∀ u, u.PlainWork → Reach u (owner u)) :
    Reach s (s.writeCmdByte code owner) := writeAt_reach (writeCommand_reach code h)

theorem loadCommand_reach (h : s.PlainWork) : Reach s (loadCommand s) :=
  slotCommand_reach h fun i _ hu _ => loadAt_reach i hu
theorem armCommand_reach (h : s.PlainWork) : Reach s (armCommand s) :=
  slotCommand_reach h fun i _ hu _ => armAt_reach i hu
theorem disarmCommand_reach (h : s.PlainWork) : Reach s (disarmCommand s) :=
  slotCommand_reach h fun i _ hu hf => disarmAt_reach i hu hf
theorem releaseCommand_reach (h : s.PlainWork) : Reach s (releaseCommand s) :=
  slotCommand_reach h fun i _ hu _ => releaseAt_reach i hu
theorem retimeCommand_reach (h : s.PlainWork) : Reach s (retimeCommand s) :=
  slotCommand_reach h fun i _ hu hf => retimeAt_reach i hu hf
theorem queryCommand_reach (h : s.PlainWork) : Reach s (queryCommand s) :=
  slotCommand_reach h fun i _ hu _ => queryAt_reach i hu
theorem safeCommand_reach (h : s.PlainWork) : Reach s (safeCommand s) := (Change.work _ h rfl).reach
theorem unknownCommand_reach (h : s.PlainWork) : Reach s (unknownCommand s) := finish_reach h _

/-- The owner of any code (R146). -/
theorem commandEffect_reach (code : Byte) (h : s.PlainWork) : Reach s (commandEffect code s) := by
  have pick : ∀ {P : Prop} [Decidable P] {f g : State → State}, Reach s (f s) → Reach s (g s) →
      Reach s ((if P then f else g) s) := by
    intro P _ f g hf hg; split; exacts [hf, hg]
  unfold commandEffect
  exact pick (loadCommand_reach h) <| pick (armCommand_reach h) <| pick (disarmCommand_reach h) <|
    pick (releaseCommand_reach h) <| pick (retimeCommand_reach h) <| pick (queryCommand_reach h) <|
    pick (suspendGroupCommand_reach h) <| pick (resumeGroupCommand_reach h) <| pick (disarmGroupCommand_reach h) <|
    pick (startCommand_reach h) <| pick (stopCommand_reach h) <| pick (settimeCommand_reach h) <|
    pick (switchClockCommand_reach h) <| pick (loadPatternCommand_reach h) <| pick (clearPatternCommand_reach h) <|
    pick (clearTripCommand_reach h) <| pick (lockLinesCommand_reach h) <| pick (safeCommand_reach h) <|
    pick (flushCaptureCommand_reach h) <| pick (softResetCommand_reach h) (unknownCommand_reach h)

end CmdWrites

/-! ### The register window (R153 to R159) -/

section Window
variable {s : State}

theorem commitLine_reach (s : State) (new : LineConfig) : Reach s (s.commitLine new) := by
  unfold State.commitLine
  refine ite_reach (fun hk => (Change.lineUnit { s.lineUnit with lockViol := true } rfl fun _ => hk).reach)
    fun hk => ?_
  exact (Change.line _ (fun hl => hl.commit new) fun h => absurd h hk).reach.trans (postIf_fireReach _ rfl).reach

theorem writeLineConfigTop_reach (s : State) (v : Byte) : Reach s (s.writeLineConfigTop v) :=
  (Change.window _).reach.trans (commitLine_reach _ _)

theorem writeArg_reach (s : State) (k : Nat) (v : Byte) : Reach s (s.writeArg k v) := by
  unfold State.writeArg
  split
  · exact (Change.cmd { s.cmd with args := s.cmd.args.set k v } rfl).reach
  · exact Reach.refl s

theorem writeStaging_reach (s : State) (k : Nat) (v : Byte) : Reach s (s.writeStaging k v) :=
  (Change.cmd { s.cmd with staging := (stagingWrite k v s.cmd.staging s.window.hold).1 } rfl).reach.trans
    (Change.window _).reach

theorem writeSyncVal_reach (s : State) (k : Nat) (v : Byte) : Reach s (s.writeSyncVal k v) := by
  have hheld : ∀ h, Reach s (s.withHold h) := fun h => (Change.window _).reach
  refine ite_reach (fun _ => ?_) fun _ => hheld _
  exact (hheld { s.window.hold with syncVal := putByte s.window.hold.syncVal k v }).change
    (.timebase _ rfl rfl rfl fun _ hb => .inl hb)

theorem writePostMask_reach (s : State) (k : Nat) (v : Byte) : Reach s (s.writePostMask k v) := by
  have hheld : ∀ h, Reach s (s.withHold h) := fun h => (Change.window _).reach
  refine ite_reach (fun _ => ?_) fun _ => hheld _
  exact (hheld { s.window.hold with postMask := putByte s.window.hold.postMask k v }).change (.queue _ rfl)

theorem writeCtrl_reach (s : State) (v : Byte) : Reach s (s.writeCtrl v) :=
  (Change.timebase { s.timebase with syncEnable := v.getLsbD 0 } rfl rfl rfl fun _ hb => .inl hb).reach.change
    (.queue _ rfl)

/-- A marker select as stored is 8 to 31 (R103). -/
theorem le_of_markerOf {v : Byte} {b : Fin 32} (h : markerOf v = some b) : 8 ≤ b.val := by
  unfold markerOf at h
  split at h
  · next hv => cases h; exact hv.1
  · cases h

theorem writeMarker_reach (s : State) (v : Byte) : Reach s (s.withTimebase { s.timebase with marker := markerOf v }) :=
  (Change.timebase { s.timebase with marker := markerOf v } rfl rfl rfl fun _ hb => .inr (le_of_markerOf hb)).reach

theorem writeWatermark_reach (s : State) (v : Byte) :
    Reach s (s.withCapture { s.capture with watermark := watermarkOf v }) := by
  refine (Change.fifo { s.capture with watermark := watermarkOf v } rfl
    fun ⟨hlen, _, _, hleft⟩ => ⟨hlen, ?_, ?_, hleft⟩).reach
  · exact Nat.le_max_left _ _
  · exact max_le (by omega) (Nat.min_le_right _ _)

theorem writeByte_reach (s : State) (a : Nat) (v : Byte) : Reach s (s.writeByte a v) := by
  have hwindow : ∀ x, Reach s (s.withWindow x) := fun x => (Change.window x).reach
  unfold State.writeByte
  exact ite_reach (fun _ => hwindow _) fun _ => ite_reach (fun _ => hwindow _) fun _ =>
    ite_reach (fun _ => writeArg_reach s _ v) fun _ =>
    ite_reach (fun _ => writeCommand_reach v fun _ hu => commandEffect_reach v hu) fun _ =>
    ite_reach (fun _ => writeStaging_reach s _ v) fun _ => ite_reach (fun _ => hwindow _) fun _ =>
    ite_reach (fun _ => writeLineConfigTop_reach s v) fun _ => ite_reach (fun _ => hwindow _) fun _ =>
    ite_reach (fun _ => writeCapConfigTop_reach s v) fun _ => ite_reach (fun _ => writeSyncVal_reach s _ v) fun _ =>
    ite_reach (fun _ => writeMarker_reach s v) fun _ => ite_reach (fun _ => writeCtrl_reach s v) fun _ =>
    ite_reach (fun _ => writePostMask_reach s _ v) fun _ => ite_reach (fun _ => writeWatermark_reach s v)
      fun _ => Reach.refl s

theorem popNotification_reach (s : State) : Reach s s.popNotification := by
  unfold State.popNotification
  split
  · exact (Change.queue { s.queue with latch := none } rfl).reach
  · next n rest h => exact (Change.popped { s.queue with entries := rest, latch := some n } h).reach

theorem popCapture_reach (s : State) : Reach s s.popCapture := by
  unfold State.popCapture
  split
  · exact (Change.fifo { s.capture with latch := ⟨none, 0⟩ } rfl
      fun ⟨hlen, hlo, hhi, _⟩ => ⟨hlen, hlo, hhi, Nat.zero_le _⟩).reach
  · next r rest hf =>
    refine (Change.fifo { s.capture with fifo := rest, latch := ⟨some r, rest.length⟩ } rfl
      fun ⟨hlen, hlo, hhi, _⟩ => ?_).reach
    rw [hf, List.length_cons] at hlen
    exact ⟨by show rest.length ≤ 16; omega, hlo, hhi, by show rest.length ≤ 15; omega⟩

theorem latchAt_reach (s : State) (a : Nat) : Reach s (s.latchAt a) := by
  have hwindow : ∀ x, Reach s (s.withWindow x) := fun x => (Change.window x).reach
  unfold State.latchAt
  exact ite_reach (fun _ => hwindow _) fun _ => ite_reach (fun _ => hwindow _) fun _ =>
    ite_reach (fun _ => hwindow _) fun _ => ite_reach (fun _ => hwindow _) fun _ =>
    ite_reach (fun _ => (hwindow { s.window with
        nextDueLatch := nextDueImage s, pendCountLatch := pendCount s }).change (.port _ rfl (.inl rfl))) fun _ =>
    ite_reach (fun _ => popNotification_reach s) fun _ => ite_reach (fun _ => popCapture_reach s)
      fun _ => Reach.refl s

/-- No latch and no pop reaches the frame. -/
@[simp] theorem latchAt_frame (s : State) (a : Nat) : (s.latchAt a).port.frame = s.port.frame := by
  have pick : ∀ {P : Prop} [Decidable P] {t u : State}, t.port.frame = s.port.frame → u.port.frame = s.port.frame →
      (if P then t else u).port.frame = s.port.frame := by
    intro P _ t u ht hu; split; exacts [ht, hu]
  have hpop : s.popNotification.port.frame = s.port.frame := by unfold State.popNotification; split <;> rfl
  have hpop' : s.popCapture.port.frame = s.port.frame := by unfold State.popCapture; split <;> rfl
  unfold State.latchAt
  exact pick rfl <| pick rfl <| pick rfl <| pick rfl <| pick rfl <| pick hpop <| pick hpop' rfl

theorem readByte_reach (h : s.port.frame = .read) : Reach s s.readByte := by
  have hshown : ∀ b, Reach s ((s.latchAt s.port.pointer.toNat).withPort
      { (s.latchAt s.port.pointer.toNat).port with sdo := some b }) := fun b =>
    (latchAt_reach s _).trans (Change.port { (s.latchAt s.port.pointer.toNat).port with sdo := some b } rfl
      (.inr ((latchAt_frame s _).trans h))).reach
  unfold State.readByte
  refine (ite_reach (fun _ => ?_) fun _ => hshown _).trans (advance_reach _)
  have hlowered : ∀ u : State, Reach u u.lowerSticky := fun u =>
    (Change.cmd { u.cmd with collide := false } rfl).reach.change (.lineUnit _ rfl fun hk => hk)
  exact (hshown _).trans (hlowered _)

theorem readAt_reach (a : Addr) : Reach s (s.readAt a) :=
  ite_reach (fun h => readByte_reach h.1) fun _ => Reach.refl s

end Window

end Sys2Proof.Machine
end

section
/-! Every row and every step (all chapters): a row but FIRE and full reset is a chain of the changes, FIRE takes the head and
goes on with changes of fires, full reset gives the image of R2; and what follows for what every step keeps. -/

namespace Sys2Proof.Machine

/-! ### The other rows -/

section Rows
variable {s : State}

/-- The outcome is a next state that a chain of changes reaches. -/
def Reaches (s : State) (out : Host.Outcome State Fault Refusal) : Prop := ∃ t, out = .next t ∧ Reach s t

theorem reaches_next {t : State} (h : Reach s t) : Reaches s (.next t) := ⟨t, rfl, h⟩

/-- A command's row. -/
theorem reaches_command {code : Byte} {owner : State → State} (h : ∀ u, u.PlainWork → Reach u (owner u)) :
    Reaches s (.next (s.writeCmdByte code owner)) := reaches_next (writeCmdByte_reach code h)

theorem execCollide_reaches (code : Byte) : Reaches s (execCollide code s) :=
  reaches_next <| ite_reach (fun _ => writeAt_reach (Change.cmd { s.cmd with collide := true } rfl).reach)
    fun _ => writeCmdByte_reach code fun _ hu => commandEffect_reach code hu

theorem execSuspendGroupVisit_reaches : Reaches s (execSuspendGroupVisit s) := by
  refine reaches_next ?_
  split
  · next g i h =>
    exact (claim_fireReach s i).reach.change (.suspendVisit (by rwa [claim_cmd]) (claim_notFired s i))
  · exact Reach.refl s

theorem execResumeGroupVisit_reaches : Reaches s (execResumeGroupVisit s) := by
  refine reaches_next ?_
  split
  · next g i h =>
    exact (claim_fireReach s i).reach.change (.resumeVisit (by rwa [claim_cmd]) (claim_notFired s i))
  · exact Reach.refl s

/-- What a walk does next is plain where its visits and its end are. -/
theorem afterSlot_plain {i : SlotId} {visit : SlotId → Work} {last : Work} (hv : ∀ j, (visit j).plain = true)
    (hl : last.plain = true) : (afterSlot i visit last).plain = true := by
  unfold afterSlot
  split
  · exact hv _
  · exact hl

/-- A visit that disarms, or not, and moves the walk on. -/
theorem disarm_work_reach {i : SlotId} {v w : Work} (h : s.cmd.inHand = some v) (hv : v.plain = true)
    (hw : w.plain = true) (hf : NotFired s i) :
    Reach s ((s.disarmSlot i).work w) ∧ Reach s (s.work w) :=
  ⟨(Change.disarm hf).reach.change (.work w ⟨v, (congrArg CommandUnit.inHand (disarmSlot_cmd s i)).trans h, hv⟩ hw),
    (Change.work w ⟨v, h, hv⟩ hw).reach⟩

theorem execDisarmGroupVisit_reaches : Reaches s (execDisarmGroupVisit s) := by
  refine reaches_next ?_
  split
  · next g i h =>
    obtain ⟨hd, hn⟩ := disarm_work_reach (s := s.claim i) (by rwa [claim_cmd]) rfl
      (afterSlot_plain (i := i) (visit := .disarmWalk g) (fun _ => rfl) (last := .finished .ok) rfl) (claim_notFired s i)
    refine (claim_fireReach s i).reach.trans ?_
    unfold State.disarmVisit
    split
    · exact hd
    · exact hn
  · exact Reach.refl s

theorem execSafeSlotVisit_reaches : Reaches s (execSafeSlotVisit s) := by
  refine reaches_next ?_
  split
  · next i h =>
    obtain ⟨hd, -⟩ := disarm_work_reach (s := s.claim i) (by rwa [claim_cmd]) rfl
      (afterSlot_plain (i := i) (visit := .safeSlots) (fun _ => rfl) (last := .safeLines 0) rfl) (claim_notFired s i)
    exact (claim_fireReach s i).reach.trans hd
  · exact Reach.refl s

theorem execSafeLineVisit_reaches : Reaches s (execSafeLineVisit s) := by
  refine reaches_next ?_
  split
  · next l h =>
    have hplain : (afterLine l).plain = true := by unfold afterLine; split <;> rfl
    exact (Change.line (s.line l).safeVisit (fun hl => hl.safeVisit) fun _ => safeVisit_config).reach.change
      (.work _ ⟨_, h, rfl⟩ hplain)
  · exact Reach.refl s

theorem execResortComplete_reaches : Reaches s (execResortComplete s) := by
  refine reaches_next ?_
  split
  · next h => exact (Change.resort h).reach
  · exact Reach.refl s

theorem execReleaseOfAPulse_reaches (l : LineId) : Reaches s (execReleaseOfAPulse l s) := by
  refine reaches_next ?_
  split
  · next p hp =>
    exact ite_reach (fun _ => (Change.line _ (fun hl => hl.released (by simp [hp])) fun _ => rfl).reach)
      fun _ => Reach.refl s
  · exact Reach.refl s

/-- The posts of a guard tick (R69). -/
theorem postTrips_reach (n : Nat) (s : State) : Reach s (s.postTrips n) := by
  induction n generalizing s with
  | zero => exact Reach.refl s
  | succ n ih =>
    unfold State.postTrips
    split
    · exact Reach.refl s
    · next l stamp rest _ =>
      have hpost : Reach s (s.postTrip l stamp rest) :=
        (Change.lineUnit { s.lineUnit with trips := rest } rfl fun hk => hk).reach.trans (post_fireReach _ rfl).reach
      exact hpost.trans (ih _)

theorem takeGuardTick_reach (s : State) : Reach s s.takeGuardTick :=
  have hticked := (Change.lines (s := s) Line.guardTick (fun _ hl => hl.guardTick) fun _ => guardTick_config).reach
  have htrips := hticked.change (.lineUnit { (s.mapLines fun _ => Line.guardTick).lineUnit with
    trips := (orderByKey (Config.tripOrderKey s.draws) s.trippingLines).map fun l => (l, s.now) } rfl fun hk => hk)
  htrips.change (.draws _)

theorem execGuardTick_reaches : Reaches s (execGuardTick s) := by
  have hticked : Reach s (if s.lineUnit.trips.isEmpty then s.takeGuardTick else s) :=
    ite_reach (fun _ => takeGuardTick_reach s) fun _ => Reach.refl s
  exact reaches_next <| ite_reach (fun _ => hticked) fun _ => (hticked.trans (postTrips_reach _ _)).change (.fire (.pauses _))

theorem execHoldnAssertion_reaches : Reaches s (execHoldnAssertion s) :=
  reaches_next <| ite_reach (fun _ => Reach.refl s) fun hp =>
    (Change.holdn Line.holdAsserted true (fun _ hl => hl.holdAsserted) (by simpa using hp)
      fun _ => holdAsserted_config).reach

theorem execHoldnRelease_reaches : Reaches s (execHoldnRelease s) :=
  reaches_next <| ite_reach (fun hp => (Change.holdn Line.holdReleased false (fun _ hl => hl.holdReleased)
    (by simpa using hp) fun _ => holdReleased_config).reach) fun _ => Reach.refl s

theorem execTick_reaches : Reaches s (execTick s) :=
  reaches_next <| ite_reach (fun hr => (Change.tick _ hr).reach.trans (postIf_fireReach _ rfl).reach) fun _ => Reach.refl s

theorem execSyncEdge_reaches : Reaches s (execSyncEdge s) := by
  refine reaches_next <| ite_reach (fun hr => ?_) fun _ => Reach.refl s
  rw [Bool.and_eq_true] at hr
  exact (Change.sync _ hr.1).reach.trans (post_fireReach _ rfl).reach

theorem execFrameStart_reaches : Reaches s (execFrameStart s) :=
  reaches_next <| ite_reach (fun _ => Reach.refl s) fun _ => ite_reach (fun _ => Change.csnFalls.reach) fun hr =>
    (Change.frameStart { s.port with frame := .address, sdo := none, nextDueRead := false } (by simpa using hr)
      rfl).reach

theorem execAddressByte_reaches (v : Byte) : Reaches s (execAddressByte v s) := by
  refine reaches_next ?_
  split
  · next h => exact (Change.addressByte
      { s.port with frame := if v.msb then .read else .write, pointer := v.setWidth 7 } h rfl).reach
  all_goals exact Reach.refl s

/-- The row FIRE goes on with the fire in progress, or takes a due head and goes on with its fire, or finds none (R37, R38). -/
theorem execFire_cases (s : State) : ∃ t, execFire s = .next t
    ∧ (Reach s t ∨ ∃ e rest, DueHead s e rest ∧ FireReach (s.takeHead e rest) t) := by
  refine ⟨_, rfl, ?_⟩
  split
  · next c stage h =>
    exact .inl (((fireStage_fireReach h).trans (runFire_fireReach _ _)).reach.change (.fire (.pauses _)))
  · next hidle =>
    split
    · exact .inl (Reach.refl s)
    · next e rest hlist =>
      split
      · next hdue =>
        simp only [State.headDue, Bool.and_eq_true, decide_eq_true_eq] at hdue
        exact .inr ⟨e, rest, ⟨hlist, hidle, hdue⟩, (runFire_fireReach _ _).trans (FireChange.pauses _).reach⟩
      · exact .inl (Reach.refl s)

end Rows

/-! ### Every row -/

/-- What a row comes to: a chain of changes, a head taken and changes of its fire, or the image of full reset. -/
inductive Runs (c : Instr) (s : State) : State → Prop
  | chain {t : State} (h : Reach s t) : Runs c s t
  | fires {t : State} {e : Entry} {rest : List Entry} (h : DueHead s e rest) (hf : FireReach (s.takeHead e rest) t) :
      Runs c s t
  | reset (h : c = .fullReset) :
      Runs c s (State.fullResetImage { s.pins with rstnLow := true } s.draws s.pauses s.pending)

/-- What a step can do: every row answers a next state that it runs to. -/
theorem exec_runs (c : Instr) (s : State) : ∃ t, exec c s = .next t ∧ Runs c s t := by
  have chain : ∀ {out : Host.Outcome State Fault Refusal}, Reaches s out → ∃ t, out = .next t ∧ Runs c s t :=
    fun ⟨t, hout, h⟩ => ⟨t, hout, .chain h⟩
  cases c with
  | load => exact chain (reaches_command fun _ hu => loadCommand_reach hu)
  | arm => exact chain (reaches_command fun _ hu => armCommand_reach hu)
  | disarm => exact chain (reaches_command fun _ hu => disarmCommand_reach hu)
  | release => exact chain (reaches_command fun _ hu => releaseCommand_reach hu)
  | retime => exact chain (reaches_command fun _ hu => retimeCommand_reach hu)
  | query => exact chain (reaches_command fun _ hu => queryCommand_reach hu)
  | suspendGroup => exact chain (reaches_command fun _ hu => suspendGroupCommand_reach hu)
  | suspendGroupVisit => exact chain execSuspendGroupVisit_reaches
  | resumeGroup => exact chain (reaches_command fun _ hu => resumeGroupCommand_reach hu)
  | resumeGroupVisit => exact chain execResumeGroupVisit_reaches
  | disarmGroup => exact chain (reaches_command fun _ hu => disarmGroupCommand_reach hu)
  | disarmGroupVisit => exact chain execDisarmGroupVisit_reaches
  | start => exact chain (reaches_command fun _ hu => startCommand_reach hu)
  | stop => exact chain (reaches_command fun _ hu => stopCommand_reach hu)
  | settime => exact chain (reaches_command fun _ hu => settimeCommand_reach hu)
  | resortComplete => exact chain execResortComplete_reaches
  | switchClock => exact chain (reaches_command fun _ hu => switchClockCommand_reach hu)
  | loadPattern => exact chain (reaches_command fun _ hu => loadPatternCommand_reach hu)
  | clearPattern => exact chain (reaches_command fun _ hu => clearPatternCommand_reach hu)
  | clearTrip => exact chain (reaches_command fun _ hu => clearTripCommand_reach hu)
  | lockLines => exact chain (reaches_command fun _ hu => lockLinesCommand_reach hu)
  | safe => exact chain (reaches_command fun _ hu => safeCommand_reach hu)
  | safeSlotVisit => exact chain execSafeSlotVisit_reaches
  | safeLineVisit => exact chain execSafeLineVisit_reaches
  | flushCapture => exact chain (reaches_command fun _ hu => flushCaptureCommand_reach hu)
  | softReset => exact chain (reaches_command fun _ hu => softResetCommand_reach hu)
  | unknownCommand code => exact chain (reaches_command fun _ hu => commandEffect_reach code hu)
  | collide code => exact chain (execCollide_reaches code)
  | commandCompletion => exact chain execCommandCompletion_reach
  | fire =>
    obtain ⟨t, hout, h | ⟨e, rest, hdue, h⟩⟩ := execFire_cases s
    · exact ⟨t, hout, .chain h⟩
    · exact ⟨t, hout, .fires hdue h⟩
  | releaseOfAPulse l => exact chain (execReleaseOfAPulse_reaches l)
  | guardTick => exact chain execGuardTick_reaches
  | holdnAssertion => exact chain execHoldnAssertion_reaches
  | holdnRelease => exact chain execHoldnRelease_reaches
  | lineConfigurationCommit v => exact chain (reaches_next (writeAt_reach (writeLineConfigTop_reach s v)))
  | tick => exact chain execTick_reaches
  | syncEdge => exact chain execSyncEdge_reaches
  | refclkEdge => exact chain execRefclkEdge_reach
  | gapTooLong => exact chain execGapTooLong_reach
  | switchTimeout => exact chain execSwitchTimeout_reach
  | captureInputChange k => exact chain (reaches_next (captureInput_reach k))
  | acceptance k => exact chain (execAcceptance_reach k)
  | channelConfigurationCommit v => exact chain (reaches_next (writeAt_reach (writeCapConfigTop_reach s v)))
  | capturePop | notificationPop | statusRead => exact chain (reaches_next (readAt_reach _))
  | latchRead => exact chain (reaches_next (ite_reach (fun h => readByte_reach h) fun _ => Reach.refl s))
  | irqEnableWrite v => exact chain (reaches_next (writeAt_reach (writeCtrl_reach s v)))
  | registerWrite v =>
    exact chain (reaches_next (ite_reach (fun _ => (writeByte_reach s _ v).trans (advance_reach _)) fun _ => Reach.refl s))
  | frameStart => exact chain execFrameStart_reaches
  | addressByte v => exact chain (execAddressByte_reaches v)
  | frameEnd => exact chain (reaches_next (Change.frameEnd
      { s.port with frame := .idle, sdo := none, nextDueRead := false } rfl rfl).reach)
  | fullReset => exact ⟨_, rfl, .reset rfl⟩
  | endOfFullReset =>
    exact chain (reaches_next (ite_reach (fun h => (Change.endOfReset h).reach) fun _ => Reach.refl s))

/-! ### Every step -/

/-- What every step keeps: `P` is kept by every change; after the taking of a head the fire goes on with changes of fires
alone, which keep `Q`; and the image of full reset has `Q`. -/
theorem step_keeps {P Q : State → Prop} (hP : ∀ s t, Change s t → P s → P t) (hQ : ∀ s t, FireChange s t → Q s → Q t)
    (hPQ : ∀ s, P s → Q s) (htake : ∀ s e rest, DueHead s e rest → P s → Q (s.takeHead e rest))
    (hreset : ∀ s (pins : Pins), P s → Q (State.fullResetImage { pins with rstnLow := true } s.draws s.pauses s.pending))
    (hqueue : ∀ s q, P s → P (s.withPending q)) {s t : State} (hs : P s) (h : step s = .next t) : Q t := by
  unfold step at h
  split at h
  · cases h; exact hPQ _ hs
  · next c rest _ =>
    have hs' := hqueue s rest hs
    obtain ⟨u, hu, hruns⟩ := exec_runs c (s.withPending rest)
    rw [h] at hu
    cases hu
    cases hruns with
    | chain hr => exact hPQ _ (hr.keeps hP hs')
    | fires hdue hf => exact hf.keeps hQ (htake _ _ _ hdue hs')
    | reset hc => exact hreset _ _ hs'

/-- What every change and the taking of a head keep, and the image of full reset has, every step keeps. -/
theorem step_keeps_self {P : State → Prop} (hP : ∀ s t, Change s t → P s → P t)
    (htake : ∀ s e rest, DueHead s e rest → P s → P (s.takeHead e rest))
    (hreset : ∀ s (pins : Pins), P s → P (State.fullResetImage { pins with rstnLow := true } s.draws s.pauses s.pending))
    (hqueue : ∀ s q, P s → P (s.withPending q)) {s t : State} (hs : P s) (h : step s = .next t) : P t :=
  step_keeps hP (fun s t hc => hP s t (.fire hc)) (fun _ h => h) htake hreset hqueue hs h

end Sys2Proof.Machine
end

section
/-! What every step keeps of the blocks apart from the Slot Table (00, 03, 05 to 10): each invariant is shown change by change. -/

namespace Sys2Proof.Machine

/-! ### What the changes of fires reach -/

section Frame
variable {s t : State}

/-- A change of fires reaches the slots, the list, the Dispatcher, the lines, the queue's entries and the pauses alone. -/
theorem FireChange.frame (h : FireChange s t) : ∃ slots list d lines entries pauses, t = { s with
    slots := slots, plist := list, dispatcher := d, pauses := pauses
    lineUnit := { s.lineUnit with lines := lines }, queue := { s.queue with entries := entries } } := by
  cases h with
  | post stamp body hb => rw [post_eq, queueAfter_settings]; exact ⟨_, _, _, _, _, _, rfl⟩
  | act | applied | goOn | done | pauses => exact ⟨_, _, _, _, _, _, rfl⟩
  | @place c a stage h hp =>
    obtain ⟨_, _, hf, -⟩ := accountAndPlace_frame s c
    rw [hf]; exact ⟨_, _, _, _, _, _, rfl⟩
  | @arm i due ref h =>
    obtain ⟨_, _, hf, -⟩ := placeSlot_frame s i (s.slot i).initialised due ref
    rw [State.armSlot, hf]; exact ⟨_, _, _, _, _, _, rfl⟩

/-- Stage five and arming leave the lines and the queue alone. -/
theorem accountAndPlace_beside_slots (s : State) (c : FireCopy) :
    (s.accountAndPlace c).lineUnit = s.lineUnit ∧ (s.accountAndPlace c).queue = s.queue := by
  obtain ⟨_, _, hf, -⟩ := accountAndPlace_frame s c
  rw [hf]; exact ⟨rfl, rfl⟩

theorem armSlot_beside_slots (s : State) (i : SlotId) (due ref : Tick) :
    (s.armSlot i due ref).lineUnit = s.lineUnit ∧ (s.armSlot i due ref).queue = s.queue := by
  obtain ⟨_, _, hf, -⟩ := placeSlot_frame s i (s.slot i).initialised due ref
  rw [State.armSlot, hf]; exact ⟨rfl, rfl⟩

/-- The visits of the walks and disarming reach the slots and the list alone. -/
theorem suspendVisit_beside_slots (s : State) (g : GroupId) (i : SlotId) :
    ∃ slots list, s.suspendVisit g i = { s with slots := slots, plist := list } := by
  unfold State.suspendVisit
  dsimp only
  split
  · split <;> exact ⟨_, _, rfl⟩
  · exact ⟨_, _, rfl⟩

theorem resumeVisit_beside_slots (s : State) (g : GroupId) (i : SlotId) :
    ∃ slots list, s.resumeVisit g i = { s with slots := slots, plist := list } := by
  unfold State.resumeVisit
  dsimp only
  split
  · split <;> exact ⟨_, _, rfl⟩
  · exact ⟨_, _, rfl⟩

theorem disarmSlot_beside_slots (s : State) (i : SlotId) :
    ∃ slots list, s.disarmSlot i = { s with slots := slots, plist := list } := by
  unfold State.disarmSlot
  split <;> exact ⟨_, _, rfl⟩

end Frame

/-! ### The queue of waiting happenings (log 1) -/

/-- A stage of SOFT_RESET leaves the waiting happenings alone. -/
theorem resetStage_pending (s : State) (stage : ResetStage) : (s.resetStage stage).pending = s.pending := by
  cases stage with
  | endOfFire => exact runFire_pending 5 s
  | _ => rfl

/-- No change takes a waiting happening. -/
theorem Change.pending {s t : State} (h : Change s t) : t.pending = s.pending := by
  cases h with
  | fire h => obtain ⟨_, _, _, _, _, _, rfl⟩ := h.frame; rfl
  | resetStage stage => exact resetStage_pending s stage
  | disarm => obtain ⟨_, _, hf⟩ := disarmSlot_beside_slots s _; rw [hf]
  | suspendVisit => obtain ⟨_, _, hf⟩ := suspendVisit_beside_slots s _ _; rw [State.work_pending, hf]
  | resumeVisit => obtain ⟨_, _, hf⟩ := resumeVisit_beside_slots s _ _; rw [State.work_pending, hf]
  | _ => rfl

/-- Settles O2: every row answers, and none of its changes takes a waiting happening. -/
theorem everyStepAnswers : Obligations.EveryStepAnswers := by
  intro s
  unfold step
  split
  · next h => exact ⟨s, rfl, by rw [h]; rfl⟩
  · next c rest h =>
    obtain ⟨t, ht, hruns⟩ := exec_runs c (s.withPending rest)
    refine ⟨t, ht, ?_⟩
    rw [h, List.tail_cons]
    cases hruns with
    | chain hr => exact hr.keeps (P := fun u => u.pending = rest) (fun _ _ hc hu => hc.pending.trans hu) rfl
    | fires _ hf =>
      exact hf.keeps (P := fun u => u.pending = rest) (fun _ _ hc hu => (Change.fire hc).pending.trans hu) rfl
    | reset => rfl

/-! ### The Notification Queue and the Serial Port (R133, R153, R154) -/

section QueueAndPort
variable {s t : State}

/-- A post keeps the bounds of the queue (R133). -/
theorem post_queueSound (h : QueueSound s.queue.entries) (stamp : Tick) {body : NotificationBody}
    (hb : Notification.isOverflow ⟨stamp, body⟩ = false) : QueueSound (s.post stamp body).queue.entries := by
  rw [post_eq]
  simp only [queueAfter]
  split
  · exact h.appendPost hb _
  · exact h

theorem FireChange.queueSound (hc : FireChange s t) (h : QueueSound s.queue.entries) : QueueSound t.queue.entries := by
  cases hc with
  | post stamp body hb => exact post_queueSound h stamp hb
  | act | applied | goOn | done | pauses => exact h
  | place => rw [State.withDispatcher_queue, (accountAndPlace_beside_slots s _).2]; exact h
  | arm => rw [(armSlot_beside_slots s _ _ _).2]; exact h

theorem overflowsApart_tail {n : Notification} {q : List Notification} (h : overflowsApart (n :: q) = true) :
    overflowsApart q = true := by
  cases q with
  | nil => rfl
  | cons m rest =>
    simp only [overflowsApart, Bool.and_eq_true] at h
    exact h.2

/-- A pop keeps the bounds of the queue (R135). -/
theorem QueueSound.pop {n : Notification} {q : List Notification} (h : QueueSound (n :: q)) : QueueSound q := by
  obtain ⟨hlen, -, hapart⟩ := h
  rw [List.length_cons] at hlen
  refine ⟨by omega, fun x hx => ?_, overflowsApart_tail hapart⟩
  rw [List.getElem?_eq_none (by omega)] at hx
  cases hx

theorem queueSound_nil : QueueSound [] := ⟨Nat.zero_le _, nofun, rfl⟩

/-- A stage of SOFT_RESET leaves the queue's bounds, the port and the pins. -/
theorem resetStage_queueSound (h : QueueSound s.queue.entries) {stage : ResetStage} (h2 : stage ≠ .endOfFire) :
    QueueSound (s.resetStage stage).queue.entries := by
  cases stage with
  | endOfFire => exact absurd rfl h2
  | queue => exact queueSound_nil
  | _ => exact h

theorem Change.queueSound (hc : Change s t) (h : QueueSound s.queue.entries) : QueueSound t.queue.entries := by
  cases hc with
  | fire hf => exact hf.queueSound h
  | queue x hx => rw [State.withQueue_queue, hx]; exact h
  | popped x hx => rw [hx] at h; exact h.pop
  | resetStage stage _ h2 => exact resetStage_queueSound h h2
  | disarm => obtain ⟨_, _, hf⟩ := disarmSlot_beside_slots s _; rw [hf]; exact h
  | suspendVisit => obtain ⟨_, _, hf⟩ := suspendVisit_beside_slots s _ _; rw [State.work_queue, hf]; exact h
  | resumeVisit => obtain ⟨_, _, hf⟩ := resumeVisit_beside_slots s _ _; rw [State.work_queue, hf]; exact h
  | _ => exact h

/-- A frame in progress stands with CSN low and RSTN high, whatever changes (R153, R154). -/
theorem Change.portSound (hc : Change s t) (h : PortSound s) : PortSound t := by
  obtain ⟨hframe, hsdo⟩ := h
  cases hc with
  | fire hf => obtain ⟨_, _, _, _, _, _, rfl⟩ := hf.frame; exact ⟨hframe, hsdo⟩
  | port x hf hs =>
    refine ⟨fun hx => hframe (hf ▸ hx), fun hx => hf.trans ?_⟩
    rcases hs with hs | hs
    · exact hsdo (hs ▸ hx)
    · exact hs
  | frameStart x hr hs => exact ⟨fun _ => ⟨rfl, hr⟩, fun hx => by rw [State.withPort_port, hs] at hx; cases hx⟩
  | csnFalls => exact ⟨fun hx => ⟨rfl, (hframe hx).2⟩, hsdo⟩
  | addressByte x ha hs =>
    refine ⟨fun _ => hframe (by rw [ha]; exact nofun), fun hx => ?_⟩
    rw [State.withPort_port, hs] at hx
    exact nomatch ha.symm.trans (hsdo hx)
  | frameEnd x hf hs =>
    exact ⟨fun hx => absurd hf hx, fun hx => by rw [State.withPort_port, hs] at hx; cases hx⟩
  | endOfReset hr => exact ⟨fun hx => ⟨(hframe hx).1, rfl⟩, hsdo⟩
  | resetStage stage _ h2 =>
    cases stage with
    | endOfFire => exact absurd rfl h2
    | _ => exact ⟨hframe, hsdo⟩
  | disarm => obtain ⟨_, _, hf⟩ := disarmSlot_beside_slots s _; rw [hf]; exact ⟨hframe, hsdo⟩
  | suspendVisit => obtain ⟨_, _, hf⟩ := suspendVisit_beside_slots s _ _; rw [hf]; exact ⟨hframe, hsdo⟩
  | resumeVisit => obtain ⟨_, _, hf⟩ := resumeVisit_beside_slots s _ _; rw [hf]; exact ⟨hframe, hsdo⟩
  | _ => exact ⟨hframe, hsdo⟩

/-- Settles O57: each change keeps the bounds of the queue and of the frame. -/
theorem everyStepKeepsQueueAndPort : Obligations.EveryStepKeepsQueueAndPort := by
  intro s t hq hp hstep
  exact step_keeps_self (P := fun s => QueueSound s.queue.entries ∧ PortSound s)
    (fun _ _ hc h => ⟨hc.queueSound h.1, hc.portSound h.2⟩) (fun _ _ _ _ h => h)
    (fun _ _ _ => ⟨queueSound_nil, fun h => absurd rfl h, nofun⟩) (fun _ _ h => h) ⟨hq, hp⟩ hstep

end QueueAndPort

/-! ### The lines (R55 to R75) -/

section Lines
variable {s t : State}

/-- What holds of every line of a state holds of every line after one is written. -/
theorem setLine_forall {P : LineId → Line → Prop} (h : ∀ m, P m (s.line m)) {l : LineId} {x : Line} (hx : P l x) :
    ∀ m, P m ((s.setLine l x).line m) := by
  intro m
  rw [State.setLine_line]
  split
  · next he => exact he ▸ hx
  · exact h m

/-- A change of fires keeps the configuration of every line and the bounds of the lines (R60, R65). -/
theorem FireChange.lines {P : LineId → Line → Prop} (hc : FireChange s t) (h : ∀ m, P m (s.line m))
    (hact : ∀ (c : FireCopy) (l : LineId), P l (s.handOver c l).line) : ∀ m, P m (t.line m) := by
  have same : ∀ {u : State}, u.lineUnit = s.lineUnit → ∀ m, P m (u.line m) := fun hu m => by
    rw [State.line, hu]; exact h m
  cases hc with
  | post stamp body hb => rw [post_eq]; exact h
  | act c l => exact setLine_forall h (hact c l)
  | applied | goOn | done | pauses => exact h
  | @place c => exact same (accountAndPlace_beside_slots s c).1
  | @arm i due ref => exact same (armSlot_beside_slots s i due ref).1

/-- A shift of the stored times reaches the pulses of the lines alone. -/
theorem shiftStored_forall {P : LineId → Line → Prop} (d : Tick) (h : ∀ m, P m ((s.line m).shiftRelease d)) :
    ∀ m, P m ((s.shiftStored d).line m) := fun m => by rw [shiftStored_line]; exact h m

/-- The bounds of the lines, change by change. -/
theorem Change.linesSound (hc : Change s t) (h : LinesSound s) : LinesSound t := by
  have same : ∀ {u : State}, u.lineUnit.lines = s.lineUnit.lines → u.pins.holdnLow = s.pins.holdnLow → LinesSound u :=
    fun hl hp l => by rw [State.line, hl, hp]; exact h l
  cases hc with
  | fire hf =>
    have hlines := hf.lines (P := fun _ x => LineSound x s.pins.holdnLow) h fun _ _ => (h _).act _ _ _ _
    obtain ⟨_, _, _, _, _, _, rfl⟩ := hf.frame
    exact hlines
  | lineUnit x hl => exact same hl rfl
  | line x hs => exact setLine_forall (P := fun _ x => LineSound x s.pins.holdnLow) h (hs (h _))
  | lines f hs => intro l; rw [State.mapLines_line]; exact hs _ (h l)
  | holdn f b hs hb =>
    intro l
    have hl := h l
    rw [hb] at hl
    rw [State.withPins_line, State.mapLines_line]
    exact hs _ hl
  | settime | sync =>
    exact shiftStored_forall (P := fun _ x => LineSound x s.pins.holdnLow) _ fun m => (h m).shiftRelease _
  | resetStage stage _ h2 =>
    cases stage with
    | endOfFire => exact absurd rfl h2
    | lines => intro l; rw [State.resetStage, State.work_line, State.mapLines_line]; exact (h l).softReset
    | _ => exact h
  | disarm => obtain ⟨_, _, hf⟩ := disarmSlot_beside_slots s _; rw [hf]; exact h
  | suspendVisit => obtain ⟨_, _, hf⟩ := suspendVisit_beside_slots s _ _; rw [hf]; exact h
  | resumeVisit => obtain ⟨_, _, hf⟩ := resumeVisit_beside_slots s _ _; rw [hf]; exact h
  | _ => exact h

/-- A line at full reset keeps its bounds whatever the level of HOLDN (R77). -/
theorem lineSound_atReset (holdnLow : Bool) : LineSound Line.atReset holdnLow :=
  (lineSound_off_iff rfl).2 ⟨rfl, ⟨rfl, rfl, rfl, rfl⟩, patternsSound_drained⟩

theorem fullResetImage_line (pins : Pins) (draws : Nat) (pauses : List Nat) (pending : List Instr) (l : LineId) :
    (State.fullResetImage pins draws pauses pending).line l = Line.atReset := by
  simp [State.line, State.fullResetImage, LineUnit.atReset]

/-- Settles O54: each change keeps the bounds of every line. -/
theorem everyStepKeepsTheLines : Obligations.EveryStepKeepsTheLines := by
  intro s t h hstep
  refine step_keeps_self (P := LinesSound) (fun _ _ hc => hc.linesSound) (fun _ _ _ _ h => h) (fun _ _ _ l => ?_)
    (fun _ _ h => h) h hstep
  rw [fullResetImage_line]
  exact lineSound_atReset _

/-- The lock in force, with the lines at the given configurations. -/
def LockedAt (configs : LineId → LineConfig) (s : State) : Prop :=
  s.lineUnit.locked = true ∧ ∀ l : LineId, (s.line l).config = configs l

/-- Under the lock no change reaches a configuration or lifts the lock (R59). -/
theorem Change.lockedAt {configs : LineId → LineConfig} (hc : Change s t) (h : LockedAt configs s) :
    LockedAt configs t := by
  obtain ⟨hlock, hconfig⟩ := h
  cases hc with
  | fire hf =>
    have hlines := hf.lines (P := fun m x => x.config = configs m) hconfig fun _ _ => (act_config _ _ _ _).trans (hconfig _)
    obtain ⟨_, _, _, _, _, _, rfl⟩ := hf.frame
    exact ⟨hlock, hlines⟩
  | lineUnit x hl hk => exact ⟨hk hlock, fun l => by rw [State.line, State.withLineUnit_lineUnit, hl]; exact hconfig l⟩
  | line x hs hx =>
    exact ⟨hlock, setLine_forall (P := fun m x => x.config = configs m) hconfig ((hx hlock).trans (hconfig _))⟩
  | lines f hs hx => exact ⟨hlock, fun l => by rw [State.mapLines_line, hx]; exact hconfig l⟩
  | holdn f b hs hb hx =>
    exact ⟨hlock, fun l => by rw [State.withPins_line, State.mapLines_line, hx]; exact hconfig l⟩
  | settime | sync =>
    exact ⟨hlock, shiftStored_forall (P := fun m x => x.config = configs m) _ hconfig⟩
  | resetStage stage _ h2 =>
    cases stage with
    | endOfFire => exact absurd rfl h2
    | lines =>
      exact ⟨hlock, fun l => by
        rw [State.resetStage, State.work_line, State.mapLines_line, softReset_config]; exact hconfig l⟩
    | _ => exact ⟨hlock, hconfig⟩
  | disarm => obtain ⟨_, _, hf⟩ := disarmSlot_beside_slots s _; rw [hf]; exact ⟨hlock, hconfig⟩
  | suspendVisit => obtain ⟨_, _, hf⟩ := suspendVisit_beside_slots s _ _; rw [hf]; exact ⟨hlock, hconfig⟩
  | resumeVisit => obtain ⟨_, _, hf⟩ := resumeVisit_beside_slots s _ _; rw [hf]; exact ⟨hlock, hconfig⟩
  | _ => exact ⟨hlock, hconfig⟩

/-- Settles O58: every change but full reset keeps the lock and the configurations under it. -/
theorem lockKeepsConfiguration : Obligations.LockKeepsConfiguration := by
  intro s t hlock hreset hstep
  have h : LockedAt (fun l => (s.line l).config) s := ⟨hlock, fun _ => rfl⟩
  unfold step at hstep
  split at hstep
  · cases hstep; exact h
  · next c rest hq =>
    obtain ⟨u, hu, hruns⟩ := exec_runs c (s.withPending rest)
    cases hstep.symm.trans hu
    cases hruns with
    | chain hr => exact hr.keeps (fun _ _ hc => hc.lockedAt) h
    | fires _ hf => exact hf.keeps (fun _ _ hc => (Change.fire hc).lockedAt) h
    | reset hc => exact absurd (by rw [hq, hc]; rfl) hreset

end Lines

end Sys2Proof.Machine
end

section
/-! What every step keeps of the Timebase, the Clock Unit and the Capture Unit (05 to 07). -/

namespace Sys2Proof.Machine

/-! ### The Timebase and the Clock Unit (R91, R108) -/

/-- Work during which the Timebase is STOPPED (R33, R106). -/
def Work.stopped : Work → Bool
  | .resort _ _ | .softReset _ => true
  | .finished _ | .suspendWalk _ _ | .resumeWalk _ _ | .disarmWalk _ _ | .safeSlots _ | .safeLines _ => false

section Timebases
variable {s t : State}

/-- The bounds of the Timebase in terms of the kind of work in hand. -/
theorem timebaseSound_iff : TimebaseSound s ↔ s.timebase.phase.isSome = s.timebase.running
    ∧ (∀ b, s.timebase.marker = some b → 8 ≤ b.val)
    ∧ ∀ w, s.cmd.inHand = some w → w.stopped = true → s.timebase.running = false := by
  constructor
  · rintro ⟨hphase, hmarker, hresort, hreset⟩
    refine ⟨hphase, hmarker, fun w hw hs => ?_⟩
    cases w with
    | resort t e => exact hresort t e hw
    | softReset stage => exact hreset stage hw
    | _ => cases hs
  · rintro ⟨hphase, hmarker, hstop⟩
    exact ⟨hphase, hmarker, fun t e hw => hstop _ hw rfl, fun stage hw => hstop _ hw rfl⟩

/-- Work that does not stop the Timebase asks nothing of it. -/
theorem TimebaseSound.withWork (h : TimebaseSound s) (ht : t.timebase = s.timebase)
    (hw : ∀ w, t.cmd.inHand = some w → w.stopped = true → s.timebase.running = false) : TimebaseSound t := by
  obtain ⟨hphase, hmarker, -⟩ := timebaseSound_iff.1 h
  refine timebaseSound_iff.2 ⟨?_, ?_, ?_⟩ <;> rw [ht]
  · exact hphase
  · exact hmarker
  · exact hw

/-- Plain work does not stop the Timebase. -/
theorem Work.not_stopped {w : Work} (h : w.plain = true) : w.stopped = false := by
  cases w with
  | finished | disarmWalk | safeSlots | safeLines => rfl
  | suspendWalk | resumeWalk | resort | softReset => cases h

/-- With plain work in hand no work stops the Timebase. -/
theorem State.PlainWork.not_stopped (h : s.PlainWork) {w : Work} (hw : s.cmd.inHand = some w) : w.stopped = false := by
  obtain ⟨v, hv, hp⟩ := h
  cases hv.symm.trans hw
  exact Work.not_stopped hp

/-- The visits of the walks leave no work that stops the Timebase. -/
theorem afterSlot_not_stopped {i : SlotId} {visit : SlotId → Work} {last : Work} (hv : ∀ j, (visit j).stopped = false)
    (hl : last.stopped = false) : (afterSlot i visit last).stopped = false := by
  unfold afterSlot
  split
  · exact hv _
  · exact hl

/-- The bounds of the Timebase, change by change. -/
theorem Change.timebaseSound (hc : Change s t) (h : TimebaseSound s) : TimebaseSound t := by
  obtain ⟨hphase, hmarker, hstop⟩ := timebaseSound_iff.1 h
  have idle : ∀ {u : State} {w : Work}, u.timebase = s.timebase → u.cmd.inHand = some w → w.stopped = false →
      TimebaseSound u := fun ht hw hs =>
    h.withWork ht fun v hv hvs => by cases hw.symm.trans hv; rw [hs] at hvs; cases hvs
  have held : ∀ {u : State} {w : Work}, u.timebase = s.timebase → s.timebase.running = false → TimebaseSound u :=
    fun ht hr => h.withWork ht fun _ _ _ => hr
  cases hc with
  | fire hf => obtain ⟨_, _, _, _, _, _, rfl⟩ := hf.frame; exact h
  | cmd x hx => exact h.withWork rfl fun w hw hs => hstop w (hx ▸ hw) hs
  | taken code => exact idle rfl rfl rfl
  | work w _ hw => exact idle rfl rfl (Work.not_stopped hw)
  | complete x _ hx => exact h.withWork rfl fun w hw => absurd (hx.symm.trans hw) nofun
  | beginReset _ hr => exact held (w := .softReset .endOfFire) rfl hr
  | fireEnded hw => exact held (w := .softReset .capture) rfl (hstop _ hw rfl)
  | resetStage stage hw h2 =>
    have hr := hstop _ hw rfl
    cases stage with
    | endOfFire => exact absurd rfl h2
    | time => exact timebaseSound_iff.2 ⟨hphase, hmarker, fun _ _ _ => hr⟩
    | _ => exact held (w := .finished .ok) rfl hr
  | suspendGroup g => exact idle rfl rfl rfl
  | resumeGroup g => exact idle rfl rfl rfl
  | disarm => obtain ⟨_, _, hf⟩ := disarmSlot_beside_slots s _; rw [hf]; exact h
  | suspendVisit =>
    obtain ⟨_, _, hf⟩ := suspendVisit_beside_slots s _ _
    rw [hf]; exact idle rfl rfl (afterSlot_not_stopped (fun _ => rfl) rfl)
  | resumeVisit =>
    obtain ⟨_, _, hf⟩ := resumeVisit_beside_slots s _ _
    rw [hf]; exact idle rfl rfl (afterSlot_not_stopped (fun _ => rfl) rfl)
  | timebase x ht hr hp hm =>
    refine timebaseSound_iff.2 ⟨?_, fun b hb => ?_, fun w hw hs => hr.trans (hstop w hw hs)⟩
    · rw [State.withTimebase_timebase, hp, hr]; exact hphase
    · rcases hm b hb with hb | hb
      · exact hmarker b hb
      · exact hb
  | handover =>
    refine timebaseSound_iff.2 ⟨?_, hmarker, hstop⟩
    show (if s.timebase.running then some 0 else none : Option Nat).isSome = s.timebase.running
    cases s.timebase.running <;> rfl
  | start p hw =>
    exact timebaseSound_iff.2 ⟨rfl, hmarker, fun w hv hs => by rw [hw.not_stopped hv] at hs; cases hs⟩
  | stop => exact timebaseSound_iff.2 ⟨rfl, hmarker, fun _ _ _ => rfl⟩
  | tick e hr => exact timebaseSound_iff.2 ⟨hr.symm, hmarker, hstop⟩
  | settime => exact timebaseSound_iff.2 ⟨hphase, hmarker, hstop⟩
  | sync t hr => exact timebaseSound_iff.2 ⟨hr.symm, hmarker, hstop⟩
  | beginResort t e _ hr => exact held (w := .resort t e) rfl hr
  | resort hw => exact timebaseSound_iff.2 ⟨hphase, hmarker, fun _ _ _ => hstop _ hw rfl⟩
  | _ => exact h

/-- The bounds of the Clock Unit, change by change. -/
theorem Change.clockSound (hc : Change s t) (h : ClockSound s.clock) : ClockSound t.clock := by
  cases hc with
  | fire hf => obtain ⟨_, _, _, _, _, _, rfl⟩ := hf.frame; exact h
  | clock x hx => exact hx h
  | resetStage stage _ h2 =>
    cases stage with
    | endOfFire => exact absurd rfl h2
    | clock => exact h.abandonSwitch
    | _ => exact h
  | disarm => obtain ⟨_, _, hf⟩ := disarmSlot_beside_slots s _; rw [hf]; exact h
  | suspendVisit => obtain ⟨_, _, hf⟩ := suspendVisit_beside_slots s _ _; rw [hf]; exact h
  | resumeVisit => obtain ⟨_, _, hf⟩ := resumeVisit_beside_slots s _ _; rw [hf]; exact h
  | _ => exact h

theorem timebaseSound_fullResetImage (pins : Pins) (draws : Nat) (pauses : List Nat) (pending : List Instr) :
    TimebaseSound (State.fullResetImage pins draws pauses pending) := ⟨rfl, nofun, nofun, nofun⟩

theorem clockSound_atReset : ClockSound Clock.atReset := ⟨fun _ _ => rfl, nofun, nofun, nofun, fun _ => rfl, fun _ => rfl⟩

/-- Settles O55: each change keeps the bounds of the Timebase and of the Clock Unit. -/
theorem everyStepKeepsTheClocks : Obligations.EveryStepKeepsTheClocks := by
  intro s t ht hclock hstep
  exact step_keeps_self (P := fun s => TimebaseSound s ∧ ClockSound s.clock)
    (fun _ _ hc h => ⟨hc.timebaseSound h.1, hc.clockSound h.2⟩) (fun _ _ _ _ h => h)
    (fun _ _ _ => ⟨timebaseSound_fullResetImage _ _ _ _, clockSound_atReset⟩) (fun _ _ h => h) ⟨ht, hclock⟩ hstep

end Timebases

/-! ### The capture channels (R117 to R128) -/

section Channels
variable {s t : State}

/-- The bounds of one channel where its filter is STABLE at its input's level. -/
theorem channelSound_stable {c : Channel} {level running : Bool} (hf : c.filter = .stable level)
    (ha : running = false → c.arm = none) : ChannelSound c level running := by
  refine ⟨fun _ => hf, fun l hl => ?_, fun l a b hl => ?_, ha⟩
  · cases hf.symm.trans hl
    rfl
  · cases hf.symm.trans hl

/-- The bounds of one channel where its filter is QUALIFYING. -/
theorem channelSound_qualifying {c : Channel} {level running : Bool} {stamp : Tick}
    (hf : c.filter = .qualifying (!level) stamp (stamp + c.filterLength.setWidth 32)) (hr : running = true)
    (he : c.edge ≠ .off) : ChannelSound c level running := by
  refine ⟨fun h => ?_, fun l hl => ?_, fun l a b hl => ?_, fun h => ?_⟩
  · rcases h with h | h
    · rw [hr] at h; cases h
    · exact absurd h he
  · cases hf.symm.trans hl
  · cases hf.symm.trans hl
    exact ⟨rfl, rfl⟩
  · rw [hr] at h; cases h

/-- The filter of a sound channel, in its two states. -/
theorem ChannelSound.cases {c : Channel} {level running : Bool} (h : ChannelSound c level running) :
    (c.filter = .stable level ∧ (running = false → c.arm = none))
      ∨ ∃ stamp, c.filter = .qualifying (!level) stamp (stamp + c.filterLength.setWidth 32) ∧ running = true
        ∧ c.edge ≠ .off := by
  obtain ⟨hrest, hstable, hqual, harm⟩ := h
  cases hf : c.filter with
  | stable l =>
    rw [hstable l hf]
    exact .inl ⟨rfl, harm⟩
  | qualifying l a b =>
    obtain ⟨rfl, rfl⟩ := hqual l a b hf
    have hwork : ¬ (running = false ∨ c.edge = .off) := fun h => by cases hf.symm.trans (hrest h)
    rw [not_or] at hwork
    exact .inr ⟨a, rfl, by simpa using hwork.1, hwork.2⟩

/-- No trigger arm is still to come on a sound channel while STOPPED (R34). -/
theorem ChannelSound.arm {c : Channel} {level running : Bool} (h : ChannelSound c level running) :
    running = false → c.arm = none := h.2.2.2

/-- Channels that differ in nothing but the run state and the input of others. -/
theorem ChannelsSound.of_eq (h : ChannelsSound s) (hc : t.capture.channels = s.capture.channels)
    (hk : t.pins.k = s.pins.k) (hr : t.timebase.running = s.timebase.running) : ChannelsSound t := by
  intro k
  have hch : t.channel k = s.channel k := by rw [State.channel, hc]; rfl
  have hlev : t.inputLevel k = s.inputLevel k := by rw [State.inputLevel, hk]; rfl
  rw [hch, hlev, hr]
  exact h k

/-- Writing one channel keeps the others. -/
theorem ChannelsSound.setChannel (h : ChannelsSound s) {k : ChannelId} {c : Channel}
    (hc : ChannelSound c (s.inputLevel k) s.timebase.running) : ChannelsSound (s.setChannel k c) := by
  intro j
  rw [State.setChannel_channel]
  split
  · next e => subst e; exact hc
  · exact h j

/-- A filter that settles. -/
theorem ChannelsSound.settleFilters (h : ChannelsSound s) : ChannelsSound s.settleFilters := by
  intro k
  rw [State.settleFilters, State.mapChannels_channel]
  exact channelSound_stable rfl (h k).arm

/-- START makes the filters in use STABLE (R119). -/
theorem ChannelSound.atStart {c : Channel} {level running : Bool} (h : ChannelSound c level running) :
    ChannelSound (c.atStart level) level true := by
  unfold Channel.atStart
  split
  · next he => exact channelSound_stable (h.1 (.inr he)) nofun
  all_goals exact channelSound_stable rfl nofun

/-- STOP abandons a qualification (R119). -/
theorem ChannelSound.abandoned {c : Channel} {level running : Bool} (h : ChannelSound c level running)
    (ha : c.arm = none) : ChannelSound { c with filter := c.filter.abandoned level } level false := by
  refine channelSound_stable ?_ fun _ => ha
  rcases h.cases with ⟨hf, -⟩ | ⟨_, hf, -⟩ <;> rw [hf] <;> rfl

/-- A load of T shifts a qualification as a whole (R120). -/
theorem ChannelSound.shift {c : Channel} {level running : Bool} (h : ChannelSound c level running) (d : Tick) :
    ChannelSound { c with filter := c.filter.shift d, arm := c.arm.map (TriggerArm.shift d) } level running := by
  rcases h.cases with ⟨hf, harm⟩ | ⟨stamp, hf, hr, he⟩
  · rw [hf]
    exact channelSound_stable rfl fun hr => by rw [harm hr]; rfl
  · refine channelSound_qualifying (stamp := stamp + d) ?_ hr he
    rw [hf, Filter.shift]
    exact congrArg (Filter.qualifying _ _) (add_right_comm _ _ _)

/-- A filter that follows its input is sound at the level it then has (R117). -/
theorem ChannelSound.follows {k : ChannelId} {f : Filter}
    (h : ChannelSound (s.channel k) (s.inputLevel k) s.timebase.running) (hf : Follows s k f) :
    ChannelSound { s.channel k with filter := f } (!s.inputLevel k) s.timebase.running := by
  cases hf with
  | settles => exact channelSound_stable rfl h.arm
  | qualifies hw stamp =>
    rw [State.filterWorks, Bool.and_eq_true, bne_iff_ne] at hw
    exact channelSound_qualifying (by rw [Bool.not_not]) hw.1 hw.2
  | returns hq => rw [(h.2.2.1 _ _ _ hq).1]; exact channelSound_stable rfl h.arm

/-- A filter that responds to a new configuration is sound with it (R121). -/
theorem ChannelSound.responds {k : ChannelId} {c : Channel} {f : Filter}
    (h : ChannelSound (s.channel k) (s.inputLevel k) s.timebase.running) (harm : c.arm = (s.channel k).arm)
    (hf : Responds s k c f) : ChannelSound { c with filter := f } (s.inputLevel k) s.timebase.running := by
  have ha : s.timebase.running = false → c.arm = none := fun hr => harm.trans (h.arm hr)
  have running : ∀ {l a b}, (s.channel k).filter = .qualifying l a b → s.timebase.running = true := fun hq => by
    rcases h.cases with ⟨hf, -⟩ | ⟨_, -, hr, -⟩
    · cases hq.symm.trans hf
    · exact hr
  cases hf with
  | rests hl => rw [h.2.1 _ hl]; exact channelSound_stable rfl ha
  | abandons => exact channelSound_stable rfl ha
  | moves hq hc => rw [(h.2.2.1 _ _ _ hq).1]; exact channelSound_qualifying rfl (running hq) hc
  | keeps hq hc hlen =>
    obtain ⟨rfl, rfl⟩ := h.2.2.1 _ _ _ hq
    rw [← hlen]
    exact channelSound_qualifying rfl (running hq) hc

/-- The bounds of the capture channels, change by change. -/
theorem Change.channelsSound (hc : Change s t) (h : ChannelsSound s) : ChannelsSound t := by
  cases hc with
  | fire hf => obtain ⟨_, _, _, _, _, _, rfl⟩ := hf.frame; exact h
  | endOfReset => exact ChannelsSound.settleFilters (s := s.withPins { s.pins with rstnLow := false }) h
  | resetStage stage _ h2 =>
    cases stage with
    | endOfFire => exact absurd rfl h2
    | capture => exact ChannelsSound.settleFilters (s := s.withCapture { s.capture with fifo := [] }) h
    | _ => exact h
  | disarm => obtain ⟨_, _, hf⟩ := disarmSlot_beside_slots s _; rw [hf]; exact h
  | suspendVisit => obtain ⟨_, _, hf⟩ := suspendVisit_beside_slots s _ _; rw [hf]; exact h
  | resumeVisit => obtain ⟨_, _, hf⟩ := resumeVisit_beside_slots s _ _; rw [hf]; exact h
  | timebase x _ hr => exact h.of_eq rfl rfl hr
  | start p =>
    intro k
    rw [State.mapChannels_channel]
    exact (h k).atStart
  | stop harms =>
    intro k
    rw [State.stopTimebase, State.mapChannels_channel]
    exact (h k).abandoned (harms k)
  | sync d =>
    intro k
    rw [State.withTimebase_channel, shiftFilters_channel]
    exact (h k).shift _
  | fifo x hx => exact h.of_eq hx rfl rfl
  | armTaken k => exact h.setChannel (by
      rcases (h k).cases with ⟨hf, -⟩ | ⟨_, hf, hr, he⟩
      · exact channelSound_stable hf fun _ => rfl
      · exact channelSound_qualifying hf hr he)
  | armAsked k a hr => exact h.setChannel (by
      rcases (h k).cases with ⟨hf, -⟩ | ⟨_, hf, hr, he⟩
      · exact channelSound_stable hf fun hs => by rw [hr] at hs; cases hs
      · exact channelSound_qualifying hf hr he)
  | @accepted k l a b hq => exact h.setChannel (by
      have hl := ((h k).2.2.1 l a b hq).1
      rw [hl, Bool.not_not]
      exact channelSound_stable rfl (h k).arm)
  | @follows k f hf =>
    intro j
    rw [State.setChannel_channel]
    split
    · next e =>
      subst e
      have hlev : (s.withPins { s.pins with k := s.pins.k.set k (!s.inputLevel k) }).inputLevel k = !s.inputLevel k := by
        simp [State.inputLevel, State.withPins]
      have := (h k).follows hf
      rw [← hlev] at this
      exact this
    · next hne =>
      have hlev : (s.withPins { s.pins with k := s.pins.k.set k (!s.inputLevel k) }).inputLevel j = s.inputLevel j := by
        have : k.val ≠ j.val := fun e => hne (Fin.ext e)
        simp [State.inputLevel, State.withPins, this]
      have := h j
      rw [← hlev] at this
      exact this
  | configured harm hf => exact h.setChannel ((h _).responds harm hf)
  | _ => exact h

/-- The bounds of the FIFO, change by change. -/
theorem Change.fifoSound (hc : Change s t) (h : FifoSound s) : FifoSound t := by
  cases hc with
  | fire hf => obtain ⟨_, _, _, _, _, _, rfl⟩ := hf.frame; exact h
  | resetStage stage _ h2 =>
    cases stage with
    | endOfFire => exact absurd rfl h2
    | capture => exact ⟨Nat.zero_le _, h.2⟩
    | _ => exact h
  | disarm => obtain ⟨_, _, hf⟩ := disarmSlot_beside_slots s _; rw [hf]; exact h
  | suspendVisit => obtain ⟨_, _, hf⟩ := suspendVisit_beside_slots s _ _; rw [hf]; exact h
  | resumeVisit => obtain ⟨_, _, hf⟩ := resumeVisit_beside_slots s _ _; rw [hf]; exact h
  | offered r hroom =>
    obtain ⟨-, hmark, hlatch⟩ := h
    refine ⟨?_, hmark, hlatch⟩
    show (s.capture.fifo ++ [r]).length ≤ 16
    rw [List.length_append, List.length_singleton]
    exact hroom
  | fifo x _ hx => exact hx h
  | _ => exact h

theorem channelsSound_fullResetImage (pins : Pins) (draws : Nat) (pauses : List Nat) (pending : List Instr) :
    ChannelsSound (State.fullResetImage pins draws pauses pending) := by
  intro k
  have hch : (State.fullResetImage pins draws pauses pending).channel k = Channel.atReset pins.k[k] := by
    simp [State.channel, State.fullResetImage, CaptureUnit.atReset]
  rw [hch]
  exact channelSound_stable rfl fun _ => rfl

theorem fifoSound_fullResetImage (pins : Pins) (draws : Nat) (pauses : List Nat) (pending : List Instr) :
    FifoSound (State.fullResetImage pins draws pauses pending) :=
  ⟨Nat.zero_le _, Nat.le_refl _, Nat.le_of_ble_eq_true rfl, Nat.zero_le _⟩

/-- Settles O56: each change keeps the bounds of the capture channels and of the FIFO. -/
theorem everyStepKeepsTheCaptures : Obligations.EveryStepKeepsTheCaptures := by
  intro s t hch hfifo hstep
  exact step_keeps_self (P := fun s => ChannelsSound s ∧ FifoSound s)
    (fun _ _ hc h => ⟨hc.channelsSound h.1, hc.fifoSound h.2⟩) (fun _ _ _ _ h => h)
    (fun _ _ _ => ⟨channelsSound_fullResetImage _ _ _ _, fifoSound_fullResetImage _ _ _ _⟩) (fun _ _ h => h)
    ⟨hch, hfifo⟩ hstep

end Channels

end Sys2Proof.Machine
end

section
/-! What every step keeps of the Pending List (02, sections 2.1 and 2.4): where an insertion stands, which slots have an
entry, the order of the list, and what a fire in progress holds. -/

namespace Sys2Proof.Machine

/-! ### Insertion (R28, R29) -/

section Insertion
variable {key : Entry → Int} {d : Int} {new : Entry} {list : List Entry}

/-- An insertion splits the list before the first later entry (R29). -/
theorem insertEntry_split (key : Entry → Int) (d : Int) (new : Entry) (list : List Entry) :
    ∃ front back : List Entry, list = front ++ back ∧ insertEntry key d new list = front ++ new :: back
      ∧ (∀ e ∈ front, key e ≤ d) ∧ ∀ e, back.head? = some e → d < key e := by
  induction list with
  | nil => exact ⟨[], [], rfl, rfl, nofun, nofun⟩
  | cons x rest ih =>
    obtain ⟨front, back, hlist, hins, hfront, hback⟩ := ih
    rw [insertEntry]
    split
    · next hx =>
      refine ⟨x :: front, back, by rw [hlist]; rfl, by rw [hins]; rfl, fun e he => ?_, hback⟩
      rcases List.mem_cons.1 he with rfl | he
      · exact hx
      · exact hfront e he
    · next hx => exact ⟨[], x :: rest, rfl, rfl, nofun, fun e he => by cases he; omega⟩

/-- In an ordered list every entry behind the place of an insertion is later. -/
theorem later_of_head_later {back : List Entry} (hs : back.Pairwise fun a b => key a ≤ key b)
    (hh : ∀ e, back.head? = some e → d < key e) : ∀ e ∈ back, d < key e := by
  cases back with
  | nil => exact nofun
  | cons x rest =>
    have hx := hh x rfl
    intro e he
    rcases List.mem_cons.1 he with rfl | he
    · exact hx
    · exact lt_of_lt_of_le hx ((List.pairwise_cons.1 hs).1 e he)

/-- In an ordered list an insertion splits the entries not later from the later ones (R28, R29). -/
theorem insertEntry_split_ordered (hs : list.Pairwise fun a b => key a ≤ key b) :
    ∃ front back : List Entry, list = front ++ back ∧ insertEntry key d new list = front ++ new :: back
      ∧ (∀ e ∈ front, key e ≤ d) ∧ ∀ e ∈ back, d < key e := by
  obtain ⟨front, back, hlist, hins, hfront, hback⟩ := insertEntry_split key d new list
  rw [hlist] at hs
  exact ⟨front, back, hlist, hins, hfront, later_of_head_later (List.pairwise_append.1 hs).2.1 hback⟩

/-- An insertion keeps an ordered list ordered (R28, R29). -/
theorem insertEntry_ordered (hn : key new = d) (hs : list.Pairwise fun a b => key a ≤ key b) :
    (insertEntry key d new list).Pairwise fun a b => key a ≤ key b := by
  obtain ⟨front, back, hlist, hins, hfront, hback⟩ := insertEntry_split_ordered (d := d) (new := new) hs
  rw [hlist, List.pairwise_append] at hs
  obtain ⟨hf, hb, hfb⟩ := hs
  rw [hins, List.pairwise_append, List.pairwise_cons]
  refine ⟨hf, ⟨fun e he => hn ▸ (hback e he).le, hb⟩, fun a ha b hb' => ?_⟩
  rcases List.mem_cons.1 hb' with rfl | hb'
  · exact hn ▸ hfront a ha
  · exact hfb a ha b hb'

/-- Settles O11: the list is split before the first later entry, behind which all are later if it is ordered. -/
theorem insertionPlace : Obligations.InsertionPlace := by
  intro key d new list
  refine ⟨insertEntry_split key d new list, fun hn hs => ⟨insertEntry_ordered hn hs, ?_⟩⟩
  obtain ⟨front, back, -, hins, hfront, hback⟩ := insertEntry_split_ordered (d := d) (new := new) hs
  exact ⟨front, back, hins, hfront, hback⟩

end Insertion

/-! ### Which slots have an entry (R27) -/

section Matching
variable {s t : State} {i : SlotId}

/-- A slot is listed exactly when an entry names it. -/
theorem listed_iff : s.listed i = true ↔ i ∈ s.plist.map Entry.slot := by
  simp [State.listed, List.any_eq_true]

/-- What R27 asks of one slot. -/
structure EntryMatches (s : State) (j : SlotId) : Prop where
  listed_iff_pending : j ∈ s.plist.map Entry.slot ↔ (s.slot j).state = .pending ∧ s.unplaced ≠ some j
  pending_of_unplaced : s.unplaced = some j → (s.slot j).state = .pending

/-- R27 slot by slot. -/
theorem listMatches_iff : ListMatchesSlots s ↔ (s.plist.map Entry.slot).Nodup ∧ ∀ j, EntryMatches s j := by
  refine and_congr_right fun _ => forall_congr' fun j => ?_
  by_cases hu : s.unplaced = some j
  · rw [if_pos hu]
    constructor
    · rintro ⟨hp, hl⟩
      refine ⟨⟨fun h => ?_, fun h => absurd hu h.2⟩, fun _ => hp⟩
      rw [listed_iff.2 h] at hl; cases hl
    · rintro ⟨hiff, hp⟩
      refine ⟨hp hu, Bool.eq_false_iff.2 fun h => (hiff.1 (listed_iff.1 h)).2 hu⟩
  · rw [if_neg hu, listed_iff]
    exact ⟨fun h => ⟨h.trans (iff_self_and.2 fun _ => hu), fun h => absurd h hu⟩,
      fun h => h.1.trans (and_iff_left hu)⟩

/-- R27 for every slot but one. -/
def MatchesBut (i : SlotId) (s : State) : Prop :=
  (s.plist.map Entry.slot).Nodup ∧ ∀ j, j ≠ i → EntryMatches s j

theorem ListMatchesSlots.but (h : ListMatchesSlots s) (i : SlotId) : MatchesBut i s :=
  ⟨(listMatches_iff.1 h).1, fun j _ => (listMatches_iff.1 h).2 j⟩

theorem ListMatchesSlots.at (h : ListMatchesSlots s) (i : SlotId) : EntryMatches s i := (listMatches_iff.1 h).2 i

/-- R27 for the one slot too. -/
theorem MatchesBut.all (h : MatchesBut i s) (hi : EntryMatches s i) : ListMatchesSlots s :=
  listMatches_iff.2 ⟨h.1, fun j => if e : j = i then e ▸ hi else h.2 j e⟩

/-- R27 does not look at anything but the list, the states of the slots and the slot that a fire has removed. -/
theorem EntryMatches.of_eq {j : SlotId} (h : EntryMatches s j) (hp : t.plist.map Entry.slot = s.plist.map Entry.slot)
    (hs : (t.slot j).state = (s.slot j).state) (hu : t.unplaced = s.unplaced) : EntryMatches t j := by
  constructor
  · rw [hp, hs, hu]; exact h.listed_iff_pending
  · rw [hs, hu]; exact h.pending_of_unplaced

theorem ListMatchesSlots.of_eq (h : ListMatchesSlots s) (hp : t.plist.map Entry.slot = s.plist.map Entry.slot)
    (hs : ∀ j, (t.slot j).state = (s.slot j).state) (hu : t.unplaced = s.unplaced) : ListMatchesSlots t :=
  listMatches_iff.2 ⟨hp ▸ (listMatches_iff.1 h).1, fun j => (h.at j).of_eq hp (hs j) hu⟩

/-- The record of the one slot does not matter to the others. -/
theorem MatchesBut.setSlot (h : MatchesBut i s) (r : Slot) : MatchesBut i (s.setSlot i r) :=
  ⟨h.1, fun j hj => (h.2 j hj).of_eq rfl (by rw [s.setSlot_slot_of_ne (Ne.symm hj)]) rfl⟩

/-- The entry of the one slot does not matter to the others. -/
theorem MatchesBut.removeSlot (h : MatchesBut i s) : MatchesBut i (s.removeSlot i) := by
  refine ⟨h.1.sublist (List.filter_sublist.map _), fun j hj => ⟨?_, (h.2 j hj).pending_of_unplaced⟩⟩
  refine Iff.trans ?_ (h.2 j hj).listed_iff_pending
  simp only [State.removeSlot, State.withPlist_plist, List.mem_map, List.mem_filter, bne_iff_ne]
  exact ⟨fun ⟨e, he, hs⟩ => ⟨e, he.1, hs⟩, fun ⟨e, he, hs⟩ => ⟨e, ⟨he, hs ▸ hj⟩, hs⟩⟩

/-- The slot whose entry is removed has none. -/
theorem removeSlot_unlisted (s : State) (i : SlotId) : i ∉ (s.removeSlot i).plist.map Entry.slot := by
  simp [State.removeSlot]

/-- The slots of a list after an insertion. -/
theorem insertSlot_slots_perm (s : State) (i : SlotId) :
    ((s.insertSlot i).plist.map Entry.slot).Perm (i :: s.plist.map Entry.slot) :=
  (insertEntry_perm _ _ _ _).map Entry.slot

theorem MatchesBut.insertSlot (h : MatchesBut i s) (hi : i ∉ s.plist.map Entry.slot) : MatchesBut i (s.insertSlot i) := by
  have hperm := insertSlot_slots_perm s i
  refine ⟨hperm.nodup_iff.2 (List.nodup_cons.2 ⟨hi, h.1⟩), fun j hj => ⟨?_, (h.2 j hj).pending_of_unplaced⟩⟩
  rw [hperm.mem_iff, List.mem_cons, or_iff_right hj]
  exact (h.2 j hj).listed_iff_pending

/-- A slot that is to come back into the list by stage five of its fire, and no other, is without its entry. -/
theorem MatchesBut.withDispatcher (h : MatchesBut i s) {x : Dispatcher}
    (hu : ∀ j, j ≠ i → s.unplaced ≠ some j ∧ (s.withDispatcher x).unplaced ≠ some j) :
    MatchesBut i (s.withDispatcher x) := by
  refine ⟨h.1, fun j hj => ?_⟩
  obtain ⟨h1, h2⟩ := hu j hj
  exact ⟨(h.2 j hj).listed_iff_pending.trans (by simp [h1, h2]), fun e => absurd e h2⟩

/-- A slot without an entry: neither PENDING nor removed by a fire. -/
theorem entryMatches_out (hl : i ∉ s.plist.map Entry.slot) (hs : (s.slot i).state ≠ .pending)
    (hu : s.unplaced ≠ some i) : EntryMatches s i :=
  ⟨iff_of_false hl fun h => hs h.1, fun h => absurd h hu⟩

/-- A PENDING slot with an entry. -/
theorem entryMatches_in (hl : i ∈ s.plist.map Entry.slot) (hs : (s.slot i).state = .pending)
    (hu : s.unplaced ≠ some i) : EntryMatches s i :=
  ⟨iff_of_true hl ⟨hs, hu⟩, fun h => absurd h hu⟩

/-- A slot that is not PENDING has no entry, and no fire has removed it (R27). -/
theorem ListMatchesSlots.out (h : ListMatchesSlots s) (hs : (s.slot i).state ≠ .pending) :
    i ∉ s.plist.map Entry.slot ∧ s.unplaced ≠ some i :=
  ⟨fun hl => hs ((h.at i).listed_iff_pending.1 hl).1, fun hu => hs ((h.at i).pending_of_unplaced hu)⟩

/-- A placement puts its slot in order with the list, whatever it was before (R16, R47). -/
theorem MatchesBut.placeSlot (h : MatchesBut i s) (hl : i ∉ s.plist.map Entry.slot) (hu : s.unplaced ≠ some i)
    (r : Slot) (due ref : Tick) : ListMatchesSlots (s.placeSlot i r due ref) := by
  unfold State.placeSlot
  split
  · exact (h.setSlot _).all (entryMatches_out hl (by rw [State.setSlot_slot_self]; nofun) hu)
  · refine ((h.setSlot _).insertSlot hl).all (entryMatches_in ?_ ?_ hu)
    · exact (insertSlot_slots_perm _ i).mem_iff.2 List.mem_cons_self
    · rw [State.insertSlot_slot, State.setSlot_slot_self]

/-- A record of the same state keeps R27. -/
theorem ListMatchesSlots.setSlot (h : ListMatchesSlots s) {r : Slot}
    (hr : r.state = .pending ↔ (s.slot i).state = .pending) : ListMatchesSlots (s.setSlot i r) := by
  refine ((h.but i).setSlot r).all ⟨?_, ?_⟩ <;> rw [State.setSlot_slot_self, hr]
  · exact (h.at i).listed_iff_pending
  · exact (h.at i).pending_of_unplaced

end Matching

end Sys2Proof.Machine
end

section
/-! What every step keeps of the Pending List, continued: each change keeps R27, R28 and what a fire in progress holds. -/

namespace Sys2Proof.Machine

/-! ### The slot operations in their cases -/

section Cases
variable {s : State} {i : SlotId}

/-- What disarming a slot does, by its state (R18). -/
theorem disarmSlot_cases (s : State) (i : SlotId) :
    ((s.slot i).state = .pending ∧ s.disarmSlot i = (s.removeSlot i).setSlot i { s.slot i with state := .loaded })
      ∨ ((s.slot i).state = .suspended ∧ s.disarmSlot i = s.setSlot i { s.slot i with state := .loaded })
      ∨ s.disarmSlot i = s := by
  unfold State.disarmSlot
  split
  · next h => exact .inl ⟨h, rfl⟩
  · next h => exact .inr (.inl ⟨h, rfl⟩)
  all_goals exact .inr (.inr rfl)

/-- What a visit of SUSPEND_GROUP does to a slot, by its group and state (R81). -/
theorem suspendVisit_cases (s : State) (g : GroupId) (i : SlotId) :
    ((s.slot i).desc.group = g ∧ (s.slot i).state = .pending
        ∧ s.suspendVisit g i = (s.removeSlot i).setSlot i
          { s.slot i with state := .suspended, remaining := remainingFrom (s.slotDist i) })
      ∨ (((s.slot i).desc.group ≠ g ∨ (s.slot i).state ≠ .pending) ∧ s.suspendVisit g i = s) := by
  unfold State.suspendVisit
  dsimp only
  split
  · next hg =>
    split
    · next h => exact .inl ⟨hg, h, rfl⟩
    all_goals next h => exact .inr ⟨.inr (by rw [h]; nofun), rfl⟩
  · next hg => exact .inr ⟨.inl hg, rfl⟩

/-- What a visit of RESUME_GROUP does to a slot, by its group and state (R83). -/
theorem resumeVisit_cases (s : State) (g : GroupId) (i : SlotId) :
    ((s.slot i).desc.group = g ∧ (s.slot i).state = .suspended
        ∧ s.resumeVisit g i
          = (s.setSlot i { s.slot i with state := .pending, due := s.now + (s.slot i).remaining }).insertSlot i)
      ∨ (((s.slot i).desc.group ≠ g ∨ (s.slot i).state ≠ .suspended) ∧ s.resumeVisit g i = s) := by
  unfold State.resumeVisit
  dsimp only
  split
  · next hg =>
    split
    · next h => exact .inl ⟨hg, h, rfl⟩
    all_goals next h => exact .inr ⟨.inr (by rw [h]; nofun), rfl⟩
  · next hg => exact .inr ⟨.inl hg, rfl⟩

/-- A placement does not look at the Dispatcher. -/
theorem placeSlot_withDispatcher (r : Slot) (due ref : Tick) (x : Dispatcher) :
    (s.placeSlot i r due ref).withDispatcher x = (s.withDispatcher x).placeSlot i r due ref := by
  unfold State.placeSlot
  rw [State.withDispatcher_group]
  split <;> rfl

/-- Accounting and stage five do not look at the Dispatcher. -/
theorem accountAndPlace_withDispatcher (c : FireCopy) (x : Dispatcher) :
    (s.accountAndPlace c).withDispatcher x = (s.withDispatcher x).accountAndPlace c := by
  unfold State.accountAndPlace
  rw [State.withDispatcher_slot]
  dsimp only
  split
  · rfl
  · exact placeSlot_withDispatcher _ _ _ _

/-- A slot that stage five completes is not PENDING (R46). -/
theorem completed_not_pending (r : Slot) (c : FireCopy) (skips : Nat) : (r.completed c skips).state ≠ .pending := by
  unfold Slot.completed
  split <;> exact nofun

end Cases

/-! ### The slot that a fire has removed (R27, R38) -/

section Unplaced
variable {s : State} {c : FireCopy} {stage : FireStage}

theorem unplaced_idle (h : s.dispatcher = .idle) : s.unplaced = none := by simp only [State.unplaced, h]

theorem unplaced_of_not_placed (h : s.dispatcher = .firing c stage) (hp : stage.placed = false) :
    s.unplaced = some c.slot := by
  cases stage with
  | apply | place => simp only [State.unplaced, h]
  | chain | notify | miss => cases hp

theorem unplaced_of_placed (h : s.dispatcher = .firing c stage) (hp : stage.placed = true) : s.unplaced = none := by
  cases stage with
  | apply | place => cases hp
  | chain | notify | miss => simp only [State.unplaced, h]

/-- A slot that no fire has claimed has not been removed by one. -/
theorem NotFired.unplaced {i : SlotId} (h : NotFired s i) : s.unplaced ≠ some i := fun hu => h (firedSlot_of_unplaced hu)

/-- A load of T leaves the stage of a fire. -/
@[simp] theorem shiftStored_unplaced (s : State) (d : Tick) : (s.shiftStored d).unplaced = s.unplaced := by
  have hd : (s.shiftStored d).dispatcher = s.dispatcher.shift d := rfl
  cases h : s.dispatcher with
  | idle => rw [unplaced_idle h, unplaced_idle (by rw [hd, h]; rfl)]
  | firing c stage =>
    have hs : (s.shiftStored d).dispatcher
        = .firing { c with nominal := c.nominal + d, fireTick := c.fireTick + d } stage := by rw [hd, h]; rfl
    cases hp : stage.placed with
    | true => rw [unplaced_of_placed h hp, unplaced_of_placed hs hp]
    | false => rw [unplaced_of_not_placed h hp, unplaced_of_not_placed hs hp]

end Unplaced

/-! ### The re-sort (R33) -/

section Resort
variable {key : Entry → Int}

/-- The entries of a list inserted one by one, each judged afresh (R33, log 7). -/
def resortInto (key : Entry → Int) (list acc : List Entry) : List Entry :=
  list.foldl (fun acc e => insertEntry key (key e) ⟨e.slot, false⟩ acc) acc

/-- The distance an entry has from `t` by its slot's due time. -/
def State.dueDist (s : State) (t : Tick) (e : Entry) : Int := signedDistance (s.slot e.slot).due t

/-- A re-sort under a T that differs inserts the entries one by one (R33). -/
theorem resorted_of_ne {s : State} {t : Tick} (h : t ≠ s.now) : s.resorted t = resortInto (s.dueDist t) s.plist [] :=
  if_neg h

/-- Under the T that stands the order stays (R99). -/
theorem resorted_now {s : State} : s.resorted s.now = s.plist := if_pos rfl

theorem resortInto_slots_perm (key : Entry → Int) (list acc : List Entry) :
    ((resortInto key list acc).map Entry.slot).Perm (list.map Entry.slot ++ acc.map Entry.slot) := by
  induction list generalizing acc with
  | nil => exact List.Perm.refl _
  | cons e rest ih =>
    refine (ih _).trans ?_
    rw [List.map_cons, List.cons_append]
    exact (((insertEntry_perm _ _ _ acc).map Entry.slot).append_left _).trans List.perm_middle

theorem resortInto_fresh (key : Entry → Int) (list acc : List Entry) (h : ∀ e ∈ acc, e.keptDue = false) :
    ∀ e ∈ resortInto key list acc, e.keptDue = false := by
  induction list generalizing acc with
  | nil => exact h
  | cons x rest ih =>
    refine ih _ fun e he => ?_
    rcases mem_insertEntry.1 he with rfl | he
    · rfl
    · exact h e he

theorem resortInto_ordered (hkey : ∀ e : Entry, key ⟨e.slot, false⟩ = key e) (list : List Entry) {acc : List Entry}
    (h : acc.Pairwise fun a b => key a ≤ key b) : (resortInto key list acc).Pairwise fun a b => key a ≤ key b := by
  induction list generalizing acc with
  | nil => exact h
  | cons x rest ih => exact ih (insertEntry_ordered (hkey x) h)

/-- An insertion stands behind the entries of its own key (R29). -/
theorem insertEntry_filter {p : Entry → Bool} {d : Int} {new : Entry} {acc : List Entry}
    (hp : ∀ e, p e = true → p new = true → key e = d) (h : acc.Pairwise fun a b => key a ≤ key b) :
    (insertEntry key d new acc).filter p = acc.filter p ++ [new].filter p := by
  obtain ⟨front, back, hlist, hins, -, hback⟩ := insertEntry_split_ordered (d := d) (new := new) h
  rw [hins, hlist, ← List.singleton_append, List.filter_append, List.filter_append, List.filter_append]
  cases hnew : p new with
  | false => simp [hnew]
  | true =>
    have hnone : back.filter p = [] := List.filter_eq_nil_iff.2 fun e he hpe => by
      have := hback e he
      have := hp e hpe hnew
      omega
    simp [hnone]

/-- Entries of one key keep the order they had (R33). -/
theorem resortInto_stable (hkey : ∀ e : Entry, key ⟨e.slot, false⟩ = key e) {p : Entry → Bool}
    (hslot : ∀ e : Entry, p ⟨e.slot, false⟩ = p e) (hp : ∀ e e', p e = true → p e' = true → key e = key e')
    (list : List Entry) {acc : List Entry} (h : acc.Pairwise fun a b => key a ≤ key b) :
    ((resortInto key list acc).filter p).map Entry.slot
      = (acc.filter p).map Entry.slot ++ (list.filter p).map Entry.slot := by
  induction list generalizing acc with
  | nil => simp [resortInto]
  | cons x rest ih =>
    refine (ih (insertEntry_ordered (hkey x) h)).trans ?_
    rw [insertEntry_filter (fun e he hx => hp e x he (hslot x ▸ hx)) h, List.map_append, List.append_assoc]
    refine congrArg _ ?_
    rw [← List.singleton_append, List.filter_append, List.map_append]
    cases hpx : p x <;> simp [hslot, hpx]

/-- The entries of a re-sort are those of the list, each of its slot (R33). -/
theorem resorted_slots_perm (s : State) (t : Tick) : ((s.resorted t).map Entry.slot).Perm (s.plist.map Entry.slot) := by
  by_cases h : t = s.now
  · rw [h, resorted_now]
  · simpa [resorted_of_ne h] using resortInto_slots_perm (s.dueDist t) s.plist []

end Resort

/-! ### R27, change by change -/

section Matches
variable {s t : State}

theorem FireChange.listMatches (hc : FireChange s t) (h : ListMatchesSlots s) : ListMatchesSlots t := by
  cases hc with
  | post stamp body => rw [post_eq]; exact h
  | act => exact h
  | pauses => exact h
  | @applied c a hd =>
    refine h.of_eq rfl (fun _ => rfl) ?_
    rw [unplaced_of_not_placed hd rfl, unplaced_of_not_placed (c := c) rfl rfl]
  | @place c a stage hd hp =>
    have hu : s.unplaced = some c.slot := unplaced_of_not_placed hd rfl
    have hnew : (s.withDispatcher (.firing c stage)).unplaced = none := unplaced_of_placed rfl hp
    have hne : (s.withDispatcher (.firing c stage)).unplaced ≠ some c.slot := by rw [hnew]; nofun
    have hl : c.slot ∉ s.plist.map Entry.slot := fun hl => ((h.at c.slot).listed_iff_pending.1 hl).2 hu
    have hbut : MatchesBut c.slot (s.withDispatcher (.firing c stage)) := by
      refine (h.but c.slot).withDispatcher fun j hj => ⟨fun e => hj ?_, by rw [hnew]; nofun⟩
      exact Option.some.inj (e.symm.trans hu)
    rw [accountAndPlace_withDispatcher]
    unfold State.accountAndPlace
    dsimp only
    split
    · refine (hbut.setSlot _).all (entryMatches_out hl ?_ hne)
      rw [State.setSlot_slot_self]
      exact completed_not_pending _ _ _
    · exact hbut.placeSlot hl hne _ _ _
  | goOn hd hp hn => exact h.of_eq rfl (fun _ => rfl) (by rw [unplaced_of_placed hd hp, unplaced_of_placed rfl hn])
  | done hd hp => exact h.of_eq rfl (fun _ => rfl) (by rw [unplaced_of_placed hd hp, unplaced_idle rfl])
  | @arm i due ref hi =>
    obtain ⟨hl, hu⟩ := h.out (i := i) (by rw [hi]; nofun)
    exact (h.but i).placeSlot hl hu _ _ _

/-- The taking of the due head (R39). -/
theorem takeHead_listMatches {e : Entry} {rest : List Entry} (hd : DueHead s e rest) (h : ListMatchesSlots s) :
    ListMatchesSlots (s.takeHead e rest) := by
  obtain ⟨hlist, hidle, -, -⟩ := hd
  have hu : (s.takeHead e rest).unplaced = some e.slot := unplaced_of_not_placed (c := s.fireCopy e) rfl rfl
  have hnone := unplaced_idle hidle
  obtain ⟨hnodup, hall⟩ := listMatches_iff.1 h
  rw [hlist, List.map_cons, List.nodup_cons] at hnodup
  refine MatchesBut.all (i := e.slot) ⟨hnodup.2, fun j hj => ?_⟩ ?_
  · have hne : (s.takeHead e rest).unplaced ≠ some j := by rw [hu]; exact fun h => hj (Option.some.inj h).symm
    refine ⟨?_, fun h => absurd h hne⟩
    have := (hall j).listed_iff_pending
    rw [hlist, List.map_cons, List.mem_cons, or_iff_right hj, hnone] at this
    exact this.trans (and_congr_right fun _ => iff_of_true nofun hne)
  · have hp := ((hall e.slot).listed_iff_pending.1 (by rw [hlist]; exact List.mem_cons_self)).1
    exact ⟨iff_of_false hnodup.1 fun h => h.2 hu, fun _ => hp⟩

/-- No fire is in progress in SOFT_RESET after its second stage (R150). -/
def IdleInReset (s : State) : Prop :=
  ∀ stage, s.cmd.inHand = some (.softReset stage) → stage ≠ .endOfFire → s.dispatcher = .idle

theorem Change.listMatches (hc : Change s t) (hidle : IdleInReset s) (h : ListMatchesSlots s) : ListMatchesSlots t := by
  cases hc with
  | fire hf => exact hf.listMatches h
  | resetStage stage hw h2 =>
    cases stage with
    | endOfFire => exact absurd rfl h2
    | slots =>
      refine listMatches_iff.2 ⟨List.nodup_nil, fun j => entryMatches_out List.not_mem_nil ?_ ?_⟩
      · simp [State.resetStage, State.emptySlots, State.slot, Slot.cleared, State.work]
      · rw [unplaced_idle (s := s.resetStage .slots) (hidle _ hw h2)]; nofun
    | _ => exact h
  | slot r _ ho hr =>
    refine h.setSlot (iff_of_false ?_ ?_)
    · rcases hr with hr | hr <;> rw [hr] <;> exact nofun
    · rcases ho with ho | ho <;> rw [ho] <;> exact nofun
  | remaining x hi => exact h.setSlot Iff.rfl
  | @disarm i hf =>
    rcases disarmSlot_cases s i with ⟨-, he⟩ | ⟨hi, he⟩ | he <;> rw [he]
    · exact ((h.but i).removeSlot.setSlot _).all
        (entryMatches_out (removeSlot_unlisted s i) (by rw [State.setSlot_slot_self]; nofun) hf.unplaced)
    · exact h.setSlot (by rw [hi]; exact iff_of_false nofun nofun)
    · exact h
  | @retime i due hf hi =>
    refine (((h.but i).removeSlot.setSlot _).insertSlot (removeSlot_unlisted s i)).all (entryMatches_in ?_ ?_ hf.unplaced)
    · exact (insertSlot_slots_perm _ i).mem_iff.2 List.mem_cons_self
    · rw [State.insertSlot_slot, State.setSlot_slot_self]; exact hi
  | @suspendVisit g i _ hf =>
    suffices ListMatchesSlots (s.suspendVisit g i) from this
    rcases suspendVisit_cases s g i with ⟨-, -, he⟩ | ⟨-, he⟩ <;> rw [he]
    · exact ((h.but i).removeSlot.setSlot _).all
        (entryMatches_out (removeSlot_unlisted s i) (by rw [State.setSlot_slot_self]; nofun) hf.unplaced)
    · exact h
  | @resumeVisit g i _ hf =>
    suffices ListMatchesSlots (s.resumeVisit g i) from this
    rcases resumeVisit_cases s g i with ⟨-, hi, he⟩ | ⟨-, he⟩ <;> rw [he]
    · refine (((h.but i).setSlot _).insertSlot (h.out (by rw [hi]; nofun)).1).all (entryMatches_in ?_ ?_ hf.unplaced)
      · exact (insertSlot_slots_perm _ i).mem_iff.2 List.mem_cons_self
      · rw [State.insertSlot_slot, State.setSlot_slot_self]
    · exact h
  | tick =>
    refine h.of_eq ?_ (fun j => rfl) rfl
    simp only [State.withTimebase_plist, State.keepDue, State.withPlist_plist, List.map_map]
    exact List.map_congr_left fun e _ => by simp only [Function.comp]; split <;> rfl
  | settime t e =>
    refine h.of_eq rfl (fun j => ?_) (shiftStored_unplaced s _)
    rw [State.loadTime_slot, shiftStored_slot]
    split <;> rfl
  | sync t =>
    refine h.of_eq rfl (fun j => ?_) (shiftStored_unplaced s _)
    rw [State.withTimebase_slot]
    show ((s.shiftStored _).slot j).state = _
    rw [shiftStored_slot]
    split <;> rfl
  | resort =>
    refine listMatches_iff.2 ⟨?_, fun j => ⟨?_, (h.at j).pending_of_unplaced⟩⟩
    · exact (resorted_slots_perm s _).nodup_iff.2 h.1
    · exact (resorted_slots_perm s _).mem_iff.trans (h.at j).listed_iff_pending
  | _ => exact h

theorem listMatches_fullResetImage (pins : Pins) (draws : Nat) (pauses : List Nat) (pending : List Instr) :
    ListMatchesSlots (State.fullResetImage pins draws pauses pending) := by
  refine listMatches_iff.2 ⟨List.nodup_nil, fun j => entryMatches_out List.not_mem_nil ?_ nofun⟩
  simp [State.slot, State.fullResetImage, Slot.cleared]

end Matches

end Sys2Proof.Machine
end

section
/-! What every step keeps of the Pending List, continued: its order (R28) and what a fire in progress holds (R34, R38,
R150). -/

namespace Sys2Proof.Machine

/-! ### The order of the list (R28) -/

section Order
variable {s t : State} {i : SlotId}

/-- Entries taken away, the others keeping their distances. -/
theorem ListInOrder.of_sublist (h : ListInOrder s) (hsub : t.plist.Sublist s.plist)
    (hkey : ∀ e ∈ t.plist, t.entryDist t.now e = s.entryDist s.now e) : ListInOrder t :=
  (List.Pairwise.sublist hsub h).imp_of_mem fun ha hb hab => by rw [hkey _ ha, hkey _ hb]; exact hab

/-- The record of a slot without an entry does not matter. -/
theorem ListInOrder.setSlot (h : ListInOrder s) (hn : ∀ e ∈ s.plist, e.slot ≠ i) (r : Slot) :
    ListInOrder (s.setSlot i r) :=
  h.of_sublist (List.Sublist.refl _) fun e he => setSlot_entryDist s r s.now (hn e he)

/-- Writing a slot with the due time it has leaves every distance. -/
theorem setSlot_entryDist_of_due (s : State) {r : Slot} (hr : r.due = (s.slot i).due) (t : Tick) (e : Entry) :
    (s.setSlot i r).entryDist t e = s.entryDist t e := by
  unfold State.entryDist
  rw [State.setSlot_slot]
  split
  · rfl
  · split
    · next he => rw [hr, he]
    · rfl

/-- A record with the due time the slot has does not matter. -/
theorem ListInOrder.setSlot_of_due (h : ListInOrder s) {r : Slot} (hr : r.due = (s.slot i).due) :
    ListInOrder (s.setSlot i r) :=
  h.of_sublist (List.Sublist.refl _) fun e _ => setSlot_entryDist_of_due s hr s.now e

theorem ListInOrder.removeSlot (h : ListInOrder s) (i : SlotId) : ListInOrder (s.removeSlot i) :=
  h.of_sublist List.filter_sublist fun _ _ => rfl

/-- No entry names the slot whose entry is removed. -/
theorem removeSlot_ne (s : State) (i : SlotId) : ∀ e ∈ (s.removeSlot i).plist, e.slot ≠ i := fun e he => by
  have := (List.mem_filter.1 he).2
  simpa using this

/-- An insertion keeps the order (R29). -/
theorem ListInOrder.insertSlot (h : ListInOrder s) (i : SlotId) : ListInOrder (s.insertSlot i) :=
  insertEntry_ordered (key := s.entryDist s.now) (d := signedDistance (s.slot i).due s.now) (new := ⟨i, false⟩) rfl h

theorem ListInOrder.placeSlot (h : ListInOrder s) (hn : ∀ e ∈ s.plist, e.slot ≠ i) (r : Slot) (due ref : Tick) :
    ListInOrder (s.placeSlot i r due ref) := by
  unfold State.placeSlot
  split
  · exact h.setSlot hn _
  · exact (h.setSlot hn _).insertSlot i

theorem FireChange.listInOrder (hc : FireChange s t) (hm : ListMatchesSlots s) (h : ListInOrder s) : ListInOrder t := by
  cases hc with
  | post stamp body => rw [post_eq]; exact h
  | @place c a stage hd =>
    have hn := unplaced_not_listed hm (unplaced_of_not_placed hd rfl)
    suffices ListInOrder (s.accountAndPlace c) from this
    unfold State.accountAndPlace
    dsimp only
    split
    · exact h.setSlot hn _
    · exact h.placeSlot hn _ _ _
  | arm due ref hi => exact h.placeSlot (not_listed hm (by rw [hi]; nofun)) _ _ _
  | _ => exact h

/-- As T counts a time comes one nearer, but for one at the half range (R92). -/
theorem signedDistance_next {x t : Tick} (h : signedDistance x t ≠ -2147483648) :
    signedDistance x (t + 1) = signedDistance x t - 1 := by
  have hstep : x - (t + 1) = x - t - 1 := by ring
  rw [signedDistance] at h
  rw [signedDistance, signedDistance, hstep]
  generalize x - t = d at h ⊢
  have hd : (d - 1).toNat = (2 ^ 32 - 1 + d.toNat) % 2 ^ 32 := BitVec.toNat_sub d 1#32
  rw [BitVec.toInt_eq_toNat_cond] at h ⊢
  rw [BitVec.toInt_eq_toNat_cond]
  split at h <;> split <;> omega

/-- A tick brings an entry one nearer, and one at the half range stays there, kept due (R28, R37). -/
theorem tick_entryDist (s : State) (e : Entry) (x : Timebase) :
    ((s.keepDue).withTimebase x).entryDist (s.now + 1)
        (if signedDistance (s.slot e.slot).due s.now = -2147483648 then { e with keptDue := true } else e)
      = max (s.entryDist s.now e - 1) (-2147483648) := by
  have hb := (signedDistance_bounds (s.slot e.slot).due s.now).1
  unfold State.entryDist
  simp only [State.withTimebase_slot, State.keepDue_slot]
  by_cases h : signedDistance (s.slot e.slot).due s.now = -2147483648
  · rw [if_pos h, if_pos rfl, h]
    split <;> omega
  · rw [if_neg h, signedDistance_next h]
    split <;> omega

/-- A load of T keeps the distance of every entry, its slot being listed (R32, R98, R101). -/
theorem shiftStored_entryDist {s : State} (new : Tick) {e : Entry} (he : e ∈ s.plist) :
    (s.shiftStored (new - s.now)).entryDist new e = s.entryDist s.now e := by
  have hl : s.listed e.slot = true := listed_iff.2 (List.mem_map_of_mem he)
  unfold State.entryDist
  rw [shiftStored_slot, if_pos hl, signedDistance_load]

/-- SOFT_RESET has emptied every slot after its fourth stage (R150). -/
def EmptyInReset (s : State) : Prop :=
  ∀ stage, s.cmd.inHand = some (.softReset stage) → stage.pastSlots = true → ∀ i : SlotId, (s.slot i).state = .empty

theorem Change.listInOrder (hc : Change s t) (hm : ListMatchesSlots s) (hempty : EmptyInReset s) (h : ListInOrder s) :
    ListInOrder t := by
  cases hc with
  | fire hf => exact hf.listInOrder hm h
  | resetStage stage hw h2 =>
    cases stage with
    | endOfFire => exact absurd rfl h2
    | slots => exact List.Pairwise.nil
    | time =>
      have hnil : s.plist = [] := List.eq_nil_iff_forall_not_mem.2 fun e he =>
        not_listed hm (by rw [hempty _ hw rfl e.slot]; nofun) e he rfl
      show s.plist.Pairwise _
      rw [hnil]
      exact List.Pairwise.nil
    | _ => exact h
  | @slot i r _ ho => exact h.setSlot (not_listed hm (by rcases ho with ho | ho <;> rw [ho] <;> exact nofun)) r
  | remaining x hi => exact h.setSlot_of_due rfl
  | @disarm i =>
    rcases disarmSlot_cases s i with ⟨-, he⟩ | ⟨-, he⟩ | he <;> rw [he]
    · exact (h.removeSlot i).setSlot (removeSlot_ne s i) _
    · exact h.setSlot_of_due rfl
    · exact h
  | @retime i => exact ((h.removeSlot i).setSlot (removeSlot_ne s i) _).insertSlot i
  | @suspendVisit g i =>
    suffices ListInOrder (s.suspendVisit g i) from this
    rcases suspendVisit_cases s g i with ⟨-, -, he⟩ | ⟨-, he⟩ <;> rw [he]
    · exact (h.removeSlot i).setSlot (removeSlot_ne s i) _
    · exact h
  | @resumeVisit g i =>
    suffices ListInOrder (s.resumeVisit g i) from this
    rcases resumeVisit_cases s g i with ⟨-, hi, he⟩ | ⟨-, he⟩ <;> rw [he]
    · exact (h.setSlot (not_listed hm (by rw [hi]; nofun)) _).insertSlot i
    · exact h
  | timebase x ht =>
    refine h.of_sublist (List.Sublist.refl _) fun e _ => ?_
    show s.entryDist x.t e = _
    rw [ht]
    rfl
  | tick e hr =>
    refine List.pairwise_map.2 (h.imp fun {a b} hab => ?_)
    show State.entryDist _ (s.now + 1) _ ≤ State.entryDist _ (s.now + 1) _
    rw [tick_entryDist, tick_entryDist]
    omega
  | settime t e => exact h.of_sublist (List.Sublist.refl _) fun x hx => shiftStored_entryDist t hx
  | sync t => exact h.of_sublist (List.Sublist.refl _) fun x hx => shiftStored_entryDist t hx
  | @resort t e =>
    suffices (s.resorted t).Pairwise fun a b => s.entryDist t a ≤ s.entryDist t b from this
    by_cases ht : t = s.now
    · rw [ht, resorted_now]; exact h
    · rw [resorted_of_ne ht]
      have hfresh := resortInto_fresh (s.dueDist t) s.plist [] nofun
      refine (resortInto_ordered (fun _ => rfl) s.plist List.Pairwise.nil).imp_of_mem fun ha hb hab => ?_
      rw [State.entryDist, State.entryDist, hfresh _ ha, hfresh _ hb]
      exact hab
  | _ => exact h

end Order

/-! ### What a fire in progress holds (R34, R38, R150) -/

section Fires
variable {s t : State}

/-- A fire's copy of the descriptor is that of its slot until stage five (R38). -/
def CopySound (s : State) : Prop :=
  ∀ c stage, s.dispatcher = .firing c stage → s.unplaced = some c.slot → (s.slot c.slot).desc = c.desc

/-- No fire is in progress during a re-sort (R34). -/
def IdleInResort (s : State) : Prop := ∀ t e, s.cmd.inHand = some (.resort t e) → s.dispatcher = .idle

theorem fireSound_iff : FireSound s ↔ CopySound s ∧ IdleInResort s ∧ IdleInReset s ∧ EmptyInReset s := Iff.rfl

/-- A state whose Dispatcher and descriptors are those of another. -/
theorem CopySound.of_eq (h : CopySound s) (hd : t.dispatcher = s.dispatcher)
    (hs : ∀ j, (t.slot j).desc = (s.slot j).desc) : CopySound t := by
  intro c stage hc hu
  have hu' : t.unplaced = s.unplaced := by rw [State.unplaced, State.unplaced, hd]
  rw [hs]
  exact h c stage (hd ▸ hc) (hu' ▸ hu)

/-- Writing a record with the descriptor that the slot has. -/
theorem setSlot_desc {i : SlotId} {r : Slot} (hr : r.desc = (s.slot i).desc) (j : SlotId) :
    ((s.setSlot i r).slot j).desc = (s.slot j).desc := by
  rw [State.setSlot_slot]
  split
  · next e => rw [hr, e]
  · rfl

/-- A placement keeps the descriptor and leaves the Dispatcher. -/
theorem placeSlot_desc {i : SlotId} {r : Slot} (hr : r.desc = (s.slot i).desc) (due ref : Tick) (j : SlotId) :
    ((s.placeSlot i r due ref).slot j).desc = (s.slot j).desc := by
  unfold State.placeSlot
  split
  · exact setSlot_desc (by exact hr) j
  · exact setSlot_desc (by exact hr) j

@[simp] theorem placeSlot_dispatcher (s : State) (i : SlotId) (r : Slot) (due ref : Tick) :
    (s.placeSlot i r due ref).dispatcher = s.dispatcher := by
  obtain ⟨_, _, h, -⟩ := placeSlot_frame s i r due ref
  rw [h]

@[simp] theorem disarmSlot_dispatcher (s : State) (i : SlotId) : (s.disarmSlot i).dispatcher = s.dispatcher := by
  obtain ⟨_, _, h⟩ := disarmSlot_beside_slots s i
  rw [h]

@[simp] theorem suspendVisit_dispatcher (s : State) (g : GroupId) (i : SlotId) :
    (s.suspendVisit g i).dispatcher = s.dispatcher := by
  obtain ⟨_, _, h⟩ := suspendVisit_beside_slots s g i
  rw [h]

@[simp] theorem resumeVisit_dispatcher (s : State) (g : GroupId) (i : SlotId) :
    (s.resumeVisit g i).dispatcher = s.dispatcher := by
  obtain ⟨_, _, h⟩ := resumeVisit_beside_slots s g i
  rw [h]

/-- Where a fire has placed its slot, its copy holds nothing more (R38). -/
theorem copySound_placed {c : FireCopy} {stage : FireStage} (hd : s.dispatcher = .firing c stage)
    (hp : stage.placed = true) : CopySound s := fun _ _ _ hu => by
  rw [unplaced_of_placed hd hp] at hu; cases hu

theorem copySound_idle (hd : s.dispatcher = .idle) : CopySound s := fun _ _ hc => by cases hd.symm.trans hc

theorem FireChange.copySound (hc : FireChange s t) (h : CopySound s) : CopySound t := by
  cases hc with
  | post stamp body => rw [post_eq]; exact h
  | @applied c a hd =>
    intro c' stage hc _
    cases hc
    exact h c .apply hd (unplaced_of_not_placed hd rfl)
  | place hd hp => exact copySound_placed rfl hp
  | goOn hd hp hn => exact copySound_placed rfl hn
  | done hd hp => exact copySound_idle rfl
  | arm due ref hi => exact h.of_eq (placeSlot_dispatcher _ _ _ _ _) (placeSlot_desc (by rfl) _ _)
  | _ => exact h

theorem Change.copySound (hc : Change s t) (hm : ListMatchesSlots s) (hidle : IdleInReset s) (h : CopySound s) :
    CopySound t := by
  have shifted : ∀ {u : State} (d : Tick), u.dispatcher = s.dispatcher.shift d →
      (∀ j, (u.slot j).desc = (s.slot j).desc) → CopySound u := by
    intro u d hd hs c stage hc hu
    cases hfire : s.dispatcher with
    | idle => rw [hd, hfire] at hc; cases hc
    | firing c0 stage0 =>
      rw [hd, hfire] at hc
      cases hc
      rw [hs]
      cases hp : stage.placed with
      | true => rw [unplaced_of_placed (hd.trans (by rw [hfire]; rfl)) hp] at hu; cases hu
      | false => exact h c0 stage hfire (unplaced_of_not_placed hfire hp)
  cases hc with
  | fire hf => exact hf.copySound h
  | resetStage stage hw h2 =>
    cases stage with
    | endOfFire => exact absurd rfl h2
    | slots => exact copySound_idle (hidle _ hw h2)
    | _ => exact h
  | @slot i r _ ho =>
    intro c stage hc hu
    have hne : i ≠ c.slot := by
      rintro rfl
      have := (hm.at c.slot).pending_of_unplaced hu
      rcases ho with ho | ho <;> rw [ho] at this <;> cases this
    rw [s.setSlot_slot_of_ne hne]
    exact h c stage hc hu
  | remaining x hi => exact h.of_eq rfl (setSlot_desc (by rfl))
  | @disarm i =>
    refine h.of_eq (disarmSlot_dispatcher s i) fun j => ?_
    rcases disarmSlot_cases s i with ⟨-, he⟩ | ⟨-, he⟩ | he <;> rw [he]
    · exact setSlot_desc (s := s.removeSlot i) (by rfl) j
    · exact setSlot_desc (by rfl) j
  | @retime i => exact h.of_eq rfl (setSlot_desc (s := s.removeSlot i) (by rfl))
  | @suspendVisit g i =>
    refine h.of_eq (suspendVisit_dispatcher s g i) fun j => ?_
    rw [State.work_slot]
    rcases suspendVisit_cases s g i with ⟨-, -, he⟩ | ⟨-, he⟩ <;> rw [he]
    exact setSlot_desc (s := s.removeSlot i) (by rfl) j
  | @resumeVisit g i =>
    refine h.of_eq (resumeVisit_dispatcher s g i) fun j => ?_
    rw [State.work_slot]
    rcases resumeVisit_cases s g i with ⟨-, -, he⟩ | ⟨-, he⟩ <;> rw [he]
    exact setSlot_desc (by rfl) j
  | settime t e =>
    refine shifted (t - s.now) rfl fun j => ?_
    rw [State.loadTime_slot, shiftStored_slot]
    split <;> rfl
  | sync t =>
    refine shifted (t - s.now) rfl fun j => ?_
    rw [State.withTimebase_slot]
    show ((s.shiftStored _).slot j).desc = _
    rw [shiftStored_slot]
    split <;> rfl
  | _ => exact h

/-- While a state is without a fire, no change of a fire but a trigger arm, a post or the pauses is made. -/
theorem FireChange.idle (hc : FireChange s t) (h : s.dispatcher = .idle) : t.dispatcher = .idle := by
  cases hc with
  | post => rw [post_eq]; exact h
  | act | pauses => exact h
  | applied _ hd | place hd | goOn hd | done hd => cases h.symm.trans hd
  | arm => exact (placeSlot_dispatcher _ _ _ _ _).trans h

/-- No change but those of a fire in progress begins or goes on with one. -/
theorem Change.idle (hc : Change s t) (h : s.dispatcher = .idle) : t.dispatcher = .idle := by
  cases hc with
  | fire hf => exact hf.idle h
  | resetStage stage _ h2 =>
    cases stage with
    | endOfFire => exact absurd rfl h2
    | _ => exact h
  | disarm => exact (disarmSlot_dispatcher _ _).trans h
  | suspendVisit => exact (suspendVisit_dispatcher _ _ _).trans h
  | resumeVisit => exact (resumeVisit_dispatcher _ _ _).trans h
  | settime =>
    show s.dispatcher.shift _ = _
    rw [h]; rfl
  | sync =>
    show s.dispatcher.shift _ = _
    rw [h]; rfl
  | _ => exact h

/-- Where work that stops the Timebase comes from: it was in hand before, or it begins, or SOFT_RESET takes a stage. -/
theorem Change.stopped_work (hc : Change s t) {w : Work} (ht : t.cmd.inHand = some w) (hw : w.stopped = true) :
    s.cmd.inHand = some w ∨ w = .softReset .endOfFire
      ∨ (t.dispatcher = .idle ∧ (w = .softReset .capture ∨ ∃ t e, w = .resort t e))
      ∨ ∃ stage, s.cmd.inHand = some (.softReset stage) ∧ stage ≠ .endOfFire ∧ stage ≠ .completion
        ∧ t = s.resetStage stage := by
  have running : ∀ {v : Work}, some v = some w → v.stopped = false → False := fun h hv => by
    cases h; rw [hw] at hv; cases hv
  cases hc with
  | fire hf => obtain ⟨_, _, _, _, _, _, rfl⟩ := hf.frame; exact .inl ht
  | cmd x hx => exact .inl (hx ▸ ht)
  | taken code => exact (running ht rfl).elim
  | work v _ hv => exact (running ht (Work.not_stopped hv)).elim
  | complete x _ hx => cases hx.symm.trans ht
  | beginReset => exact .inr (.inl (Option.some.inj ht).symm)
  | fireEnded _ hd => exact .inr (.inr (.inl ⟨hd, .inl (Option.some.inj ht).symm⟩))
  | resetStage stage h h2 h10 => exact .inr (.inr (.inr ⟨stage, h, h2, h10, rfl⟩))
  | suspendGroup g => exact (running ht rfl).elim
  | resumeGroup g => exact (running ht rfl).elim
  | disarm =>
    obtain ⟨_, _, hf⟩ := disarmSlot_beside_slots s _
    rw [hf] at ht
    exact .inl ht
  | suspendVisit => exact (running ht (afterSlot_not_stopped (fun _ => rfl) rfl)).elim
  | resumeVisit => exact (running ht (afterSlot_not_stopped (fun _ => rfl) rfl)).elim
  | beginResort t e _ _ hd => exact .inr (.inr (.inl ⟨hd, .inr ⟨t, e, (Option.some.inj ht).symm⟩⟩))
  | resort => exact (running ht rfl).elim
  | _ => exact .inl ht

theorem Change.idleInResort (hc : Change s t) (h : IdleInResort s) : IdleInResort t := by
  intro time e ht
  rcases hc.stopped_work ht rfl with hs | hw | ⟨hd, -⟩ | ⟨stage, hs, -, h10, rfl⟩
  · exact hc.idle (h time e hs)
  · cases hw
  · exact hd
  · cases stage with
    | completion => exact absurd rfl h10
    | _ => cases ht

theorem Change.idleInReset (hc : Change s t) (h : IdleInReset s) : IdleInReset t := by
  intro stage ht hne
  rcases hc.stopped_work ht rfl with hs | hw | ⟨hd, -⟩ | ⟨stage', hs, h2, -, -⟩
  · exact hc.idle (h stage hs hne)
  · cases hw; exact absurd rfl hne
  · exact hd
  · exact hc.idle (h stage' hs h2)

/-- Nothing but a LOAD fills a slot: with no fire in progress and no slot command in hand, empty slots stay empty. -/
theorem Change.keepsEmpty (hc : Change s t) (hidle : s.dispatcher = .idle) (hw : ¬ s.PlainWork)
    (h : ∀ i : SlotId, (s.slot i).state = .empty) : ∀ i : SlotId, (t.slot i).state = .empty := by
  have shifted : ∀ (d : Tick) i, ((s.shiftStored d).slot i).state = .empty := fun d i => by
    rw [shiftStored_slot]
    split <;> exact h i
  cases hc with
  | fire hf =>
    cases hf with
    | post => rw [post_eq]; exact h
    | act | pauses => exact h
    | applied _ hd | place hd | goOn hd | done hd => cases hidle.symm.trans hd
    | @arm i _ _ hi => cases (h i).symm.trans hi
  | resetStage stage hr h2 =>
    cases stage with
    | endOfFire => exact absurd rfl h2
    | slots => intro i; simp [State.resetStage, State.emptySlots, State.slot, Slot.cleared, State.work]
    | _ => exact h
  | slot r hp => exact absurd hp hw
  | @remaining i x hi => cases (h i).symm.trans hi
  | @disarm i => rw [disarmSlot_other (.inl (h i))]; exact h
  | @retime i _ _ hi => cases (h i).symm.trans hi
  | @suspendVisit g i =>
    rcases suspendVisit_cases s g i with ⟨-, hi, -⟩ | ⟨-, he⟩
    · cases (h i).symm.trans hi
    · rw [he]; exact h
  | @resumeVisit g i =>
    rcases resumeVisit_cases s g i with ⟨-, hi, -⟩ | ⟨-, he⟩
    · cases (h i).symm.trans hi
    · rw [he]; exact h
  | settime => exact shifted _
  | sync => exact shifted _
  | _ => exact h

/-- SOFT_RESET in hand is no plain work. -/
theorem not_plainWork_of_softReset {stage : ResetStage} (h : s.cmd.inHand = some (.softReset stage)) : ¬ s.PlainWork := by
  rintro ⟨w, hw, hp⟩
  cases h.symm.trans hw
  cases hp

theorem Change.emptyInReset (hc : Change s t) (hidle : IdleInReset s) (h : EmptyInReset s) : EmptyInReset t := by
  have kept : ∀ {stage}, s.cmd.inHand = some (.softReset stage) → stage.pastSlots = true →
      ∀ i : SlotId, (t.slot i).state = .empty := fun {stage} hs hp =>
    hc.keepsEmpty (hidle stage hs (by rintro rfl; cases hp)) (not_plainWork_of_softReset hs) (h stage hs hp)
  intro stage ht hp
  rcases hc.stopped_work ht rfl with hs | hw | ⟨-, hw | ⟨_, _, hw⟩⟩ | ⟨stage', hs, h2, h10, rfl⟩
  · exact kept hs hp
  · cases hw; cases hp
  · cases hw; cases hp
  · cases hw
  · cases stage' with
    | endOfFire => exact absurd rfl h2
    | completion => exact absurd rfl h10
    | capture => cases ht; cases hp
    | slots => intro i; simp [State.resetStage, State.emptySlots, State.slot, Slot.cleared, State.work]
    | groups | lines | clock | time | queue => exact kept hs rfl

theorem Change.fireSound (hc : Change s t) (hm : ListMatchesSlots s) (h : FireSound s) : FireSound t := by
  obtain ⟨hcopy, hresort, hreset, hempty⟩ := h
  exact ⟨hc.copySound hm hreset hcopy, hc.idleInResort hresort, hc.idleInReset hreset, hc.emptyInReset hreset hempty⟩

/-- The head is taken while RUNNING, so in no re-sort and no SOFT_RESET (R34, R37). -/
theorem takeHead_fireSound {e : Entry} {rest : List Entry} (hd : DueHead s e rest) (ht : TimebaseSound s) :
    FireSound (s.takeHead e rest) := by
  obtain ⟨-, -, hrun, -⟩ := hd
  obtain ⟨-, -, hresort, hreset⟩ := ht
  refine ⟨fun c stage hc _ => ?_, fun t e hw => ?_, fun stage hw => ?_, fun stage hw => ?_⟩
  · cases hc; rfl
  · rw [hresort t e hw] at hrun; cases hrun
  · rw [hreset stage hw] at hrun; cases hrun
  · rw [hreset stage hw] at hrun; cases hrun

theorem takeHead_listInOrder {e : Entry} {rest : List Entry} (hd : DueHead s e rest) (h : ListInOrder s) :
    ListInOrder (s.takeHead e rest) :=
  h.of_sublist (by rw [hd.1]; exact List.sublist_cons_self e rest) fun _ _ => rfl

theorem fireSound_fullResetImage (pins : Pins) (draws : Nat) (pauses : List Nat) (pending : List Instr) :
    FireSound (State.fullResetImage pins draws pauses pending) :=
  ⟨copySound_idle rfl, fun _ _ _ => rfl, fun _ _ _ => rfl, fun _ h => by cases h⟩

/-- What the list, the fire in progress and the Timebase keep together. -/
def ListFireSound (s : State) : Prop := ListMatchesSlots s ∧ ListInOrder s ∧ FireSound s ∧ TimebaseSound s

theorem Change.listFireSound (hc : Change s t) (h : ListFireSound s) : ListFireSound t := by
  obtain ⟨hm, ho, hf, ht⟩ := h
  obtain ⟨-, -, hreset, hempty⟩ := id hf
  exact ⟨hc.listMatches hreset hm, hc.listInOrder hm hempty ho, hc.fireSound hm hf, hc.timebaseSound ht⟩

/-- Settles O51: each change keeps which slots have an entry, the order of the list, and what a fire holds. -/
theorem everyStepKeepsTheList : Obligations.EveryStepKeepsTheList := by
  intro s t hm ho hf ht hstep
  have hkept : ListFireSound t := by
    refine step_keeps_self (P := ListFireSound) (fun _ _ hc h => hc.listFireSound h) (fun _ _ _ hd h => ?_)
      (fun _ _ _ => ?_) (fun _ _ h => h) ⟨hm, ho, hf, ht⟩ hstep
    · obtain ⟨hm, ho, -, ht⟩ := h
      exact ⟨takeHead_listMatches hd hm, takeHead_listInOrder hd ho, takeHead_fireSound hd ht, ht⟩
    · exact ⟨listMatches_fullResetImage _ _ _ _, List.Pairwise.nil, fireSound_fullResetImage _ _ _ _,
        timebaseSound_fullResetImage _ _ _ _⟩
  exact ⟨hkept.1, hkept.2.1, hkept.2.2.1⟩

end Fires

end Sys2Proof.Machine
end

section
/-! What every step keeps of the slot records (01, section 1.1) and of the groups' suspension (04). -/

namespace Sys2Proof.Machine

/-! ### Slot records (R6 to R8, R12) -/

section Slots
variable {s t : State} {i : SlotId} {r : Slot}

/-- The bounds of the run fields of an armed slot, and its descriptor (R6, R12). -/
structure RunSound (r : Slot) : Prop where
  accepted : DescriptorSound r.desc
  counted  : r.desc.counted = true → r.repeatsLeft ≠ 0 ∧ r.repeatsLeft.toNat ≤ r.desc.repeats.toNat
  other    : r.desc.counted = false → r.repeatsLeft = 0

/-- An armed slot is sound where its run fields and its remaining time are. -/
theorem slotSound_armed_iff (ha : r.armed) :
    SlotSound r ↔ RunSound r ∧ (r.state = .suspended → r.remaining.toNat < 2 ^ 31) := by
  have hne : r.state ≠ .empty := by rcases ha with h | h <;> rw [h] <;> exact nofun
  constructor
  · rintro ⟨-, hdesc, hcounted, hother, hrem⟩
    exact ⟨⟨hdesc hne, hcounted ha, hother ha⟩, hrem⟩
  · rintro ⟨⟨hdesc, hcounted, hother⟩, hrem⟩
    exact ⟨fun h => absurd h hne, fun _ => hdesc, fun _ => hcounted, fun _ => hother, hrem⟩

theorem SlotSound.run (h : SlotSound r) (ha : r.armed) : RunSound r := ((slotSound_armed_iff ha).1 h).1

/-- A PENDING record is sound where its run fields are. -/
theorem RunSound.pending (h : RunSound r) (hs : r.state = .pending) : SlotSound r :=
  (slotSound_armed_iff (.inl hs)).2 ⟨h, fun h' => by cases hs.symm.trans h'⟩

/-- A SUSPENDED record is sound where its run fields and its remaining time are. -/
theorem RunSound.suspended (h : RunSound r) (hs : r.state = .suspended) (hr : r.remaining.toNat < 2 ^ 31) : SlotSound r :=
  (slotSound_armed_iff (.inr hs)).2 ⟨h, fun _ => hr⟩

/-- A distance makes a remaining time below 2^31 (R16, R47, R81). -/
theorem remainingFrom_lt {d : Int} (h : d < 2147483648) : (remainingFrom d).toNat < 2 ^ 31 := by
  rw [remainingFrom, BitVec.toNat_ofNat]
  omega

theorem entryDist_lt (s : State) (t : Tick) (e : Entry) : s.entryDist t e < 2147483648 := by
  unfold State.entryDist
  split
  · decide
  · exact (signedDistance_bounds _ _).2

theorem slotDist_lt (s : State) (i : SlotId) : s.slotDist i < 2147483648 := by
  unfold State.slotDist
  split
  · exact entryDist_lt _ _ _
  · exact (signedDistance_bounds _ _).2

theorem SlotsSound.setSlot (h : SlotsSound s) (hr : SlotSound r) : SlotsSound (s.setSlot i r) := by
  intro j
  rw [State.setSlot_slot]
  split
  · exact hr
  · exact h j

/-- A placement of sound run fields (R16, R47). -/
theorem SlotsSound.placeSlot (h : SlotsSound s) (hr : RunSound r) (due ref : Tick) :
    SlotsSound (s.placeSlot i r due ref) := by
  unfold State.placeSlot
  split
  · refine h.setSlot (RunSound.suspended ⟨hr.accepted, hr.counted, hr.other⟩ rfl ?_)
    exact remainingFrom_lt (signedDistance_bounds _ _).2
  · exact h.setSlot (RunSound.pending ⟨hr.accepted, hr.counted, hr.other⟩ rfl)

/-- Arm-time initialisation makes sound run fields of a LOADED record (R16). -/
theorem SlotSound.initialised (h : SlotSound r) (hs : r.state = .loaded) : RunSound r.initialised := by
  refine ⟨h.desc (by rw [hs]; nofun), fun hc => ?_, fun hc => if_neg (Bool.eq_false_iff.1 hc)⟩
  have hleft : r.initialised.repeatsLeft = r.desc.repeats := if_pos hc
  rw [hleft]
  have hrep : r.desc.counted = true := hc
  rw [Descriptor.counted, Bool.and_eq_true, bne_iff_ne, bne_iff_ne] at hrep
  exact ⟨hrep.2, Nat.le_refl _⟩

/-- A counted slot skips at most the repeats it has left (R44). -/
theorem FireCopy.skips_le {c : FireCopy} (hc : c.desc.counted = true) (left : BitVec 16) : c.skips left ≤ left.toNat := by
  unfold FireCopy.skips
  split
  · exact Nat.zero_le _
  · exact Nat.min_le_right _ _

/-- A counted slot that a fire does not complete has more repeats left than it skips (R43, R44). -/
theorem FireCopy.skips_lt {c : FireCopy} {left : BitVec 16} (hc : c.desc.counted = true) (h : c.completes left = false) :
    c.skips left < left.toNat := by
  refine lt_of_le_of_ne (c.skips_le hc left) fun he => ?_
  rw [FireCopy.completes, hc, he, beq_self_eq_true, Bool.and_self, Bool.or_true] at h
  cases h

/-- A slot that a fire re-arms has sound run fields (R42 to R44, R47). -/
theorem RunSound.rearmed {c : FireCopy} (h : RunSound r) (hd : r.desc = c.desc)
    (hc : c.completes (r.accounted c.desc).repeatsLeft = false) :
    RunSound ((r.accounted c.desc).rearmed c (c.skips (r.accounted c.desc).repeatsLeft)) := by
  refine ⟨h.accepted, fun hcount => ?_, fun hcount => ?_⟩
  · have hcc : c.desc.counted = true := hd ▸ hcount
    have hlt := FireCopy.skips_lt hcc hc
    have hleft : (r.accounted c.desc).repeatsLeft = BitVec.ofNat 16 (r.repeatsLeft.toNat - 1) := if_pos hcc
    have hnew : ((r.accounted c.desc).rearmed c (c.skips (r.accounted c.desc).repeatsLeft)).repeatsLeft
        = BitVec.ofNat 16 ((r.accounted c.desc).repeatsLeft.toNat - c.skips (r.accounted c.desc).repeatsLeft) := if_pos hcc
    obtain ⟨-, hle⟩ := h.counted hcount
    have hbound := r.repeatsLeft.isLt
    rw [hnew]
    generalize c.skips (r.accounted c.desc).repeatsLeft = n at hlt ⊢
    rw [hleft, BitVec.toNat_ofNat] at hlt ⊢
    refine ⟨fun hz => ?_, ?_⟩
    · have hz := congrArg BitVec.toNat hz
      rw [BitVec.toNat_ofNat] at hz
      change _ = 0 at hz
      omega
    · rw [BitVec.toNat_ofNat]
      show _ ≤ r.desc.repeats.toNat
      omega
  · have hcc : ¬ c.desc.counted = true := by rw [← hd]; exact Bool.eq_false_iff.1 hcount
    show (if c.desc.counted then _ else (r.accounted c.desc).repeatsLeft) = 0
    rw [if_neg hcc]
    show (if c.desc.counted then _ else r.repeatsLeft) = 0
    rw [if_neg hcc]
    exact h.other hcount

/-- A slot that a fire completes is sound (R46). -/
theorem slotSound_completed (hd : DescriptorSound r.desc) (c : FireCopy) (skips : Nat) : SlotSound (r.completed c skips) := by
  unfold Slot.completed
  split
  · exact slotSound_cleared
  · exact slotSound_loaded rfl hd

theorem FireChange.slotsSound (hc : FireChange s t) (hm : ListMatchesSlots s) (hcopy : CopySound s) (h : SlotsSound s) :
    SlotsSound t := by
  cases hc with
  | post => rw [post_eq]; exact h
  | @place c a stage hd hp =>
    have hu := unplaced_of_not_placed hd rfl
    have hrun := (h c.slot).run (.inl ((hm.at c.slot).pending_of_unplaced hu))
    suffices SlotsSound (s.accountAndPlace c) from this
    unfold State.accountAndPlace
    dsimp only
    split
    · exact h.setSlot (slotSound_completed (by exact hrun.accepted) _ _)
    · next hne => exact h.placeSlot (hrun.rearmed (hcopy c _ hd hu) (Bool.eq_false_iff.2 hne)) _ _
  | @arm i due ref hi => exact h.placeSlot ((h i).initialised hi) _ _
  | _ => exact h

/-- A record moved in its due time alone. -/
theorem SlotSound.withDue (h : SlotSound r) (hs : r.state ≠ .empty) (due : Tick) : SlotSound { r with due := due } :=
  ⟨fun he => absurd he hs, h.2.1, h.2.2.1, h.2.2.2.1, h.2.2.2.2⟩

/-- An armed record back in LOADED. -/
theorem SlotSound.disarmed (h : SlotSound r) (hs : r.state ≠ .empty) : SlotSound { r with state := .loaded } :=
  slotSound_loaded rfl (h.desc hs)

theorem Change.slotsSound (hc : Change s t) (hm : ListMatchesSlots s) (hcopy : CopySound s) (h : SlotsSound s) :
    SlotsSound t := by
  have shifted : ∀ d, SlotsSound (s.shiftStored d) := fun d j => by
    rw [shiftStored_slot]
    split
    · next hl =>
      have hp := ((hm.at j).listed_iff_pending.1 (listed_iff.1 hl)).1
      exact (h j).withDue (by rw [hp]; nofun) _
    · exact h j
  cases hc with
  | fire hf => exact hf.slotsSound hm hcopy h
  | resetStage stage _ h2 =>
    cases stage with
    | endOfFire => exact absurd rfl h2
    | slots =>
      intro i
      have : (s.resetStage .slots).slot i = Slot.cleared := by
        simp [State.resetStage, State.emptySlots, State.slot, State.work]
      rw [this]
      exact slotSound_cleared
    | _ => exact h
  | @slot i r _ _ _ hs => exact h.setSlot (hs (h i))
  | @remaining i x hi hx =>
    have hrun := (h i).run (.inr hi)
    exact h.setSlot (RunSound.suspended ⟨hrun.accepted, hrun.counted, hrun.other⟩ hi hx)
  | @disarm i =>
    rcases disarmSlot_cases s i with ⟨hi, he⟩ | ⟨hi, he⟩ | he <;> rw [he]
    · exact SlotsSound.setSlot (s := s.removeSlot i) h ((h i).disarmed (by rw [hi]; nofun))
    · exact h.setSlot ((h i).disarmed (by rw [hi]; nofun))
    · exact h
  | @retime i due _ hi => exact SlotsSound.setSlot (s := s.removeSlot i) h ((h i).withDue (by rw [hi]; nofun) due)
  | @suspendVisit g i =>
    suffices SlotsSound (s.suspendVisit g i) from this
    rcases suspendVisit_cases s g i with ⟨-, hi, he⟩ | ⟨-, he⟩ <;> rw [he]
    · have hrun := (h i).run (.inl hi)
      exact SlotsSound.setSlot (s := s.removeSlot i) h
        (RunSound.suspended ⟨hrun.accepted, hrun.counted, hrun.other⟩ rfl (remainingFrom_lt (slotDist_lt s i)))
    · exact h
  | @resumeVisit g i =>
    suffices SlotsSound (s.resumeVisit g i) from this
    rcases resumeVisit_cases s g i with ⟨-, hi, he⟩ | ⟨-, he⟩ <;> rw [he]
    · have hrun := (h i).run (.inr hi)
      exact SlotsSound.setSlot (s := s) h (RunSound.pending ⟨hrun.accepted, hrun.counted, hrun.other⟩ rfl)
    · exact h
  | settime => exact shifted _
  | sync => exact shifted _
  | _ => exact h

theorem slotsSound_fullResetImage (pins : Pins) (draws : Nat) (pauses : List Nat) (pending : List Instr) :
    SlotsSound (State.fullResetImage pins draws pauses pending) := by
  intro i
  have : (State.fullResetImage pins draws pauses pending).slot i = Slot.cleared := by
    simp [State.slot, State.fullResetImage]
  rw [this]
  exact slotSound_cleared

/-- What the slot records keep in a fire. -/
def FiredSlotsSound (s : State) : Prop := ListMatchesSlots s ∧ CopySound s ∧ SlotsSound s

/-- Settles O52: each change keeps the bounds of the records; in a fire the copy's descriptor is the slot's until stage
five, so accounting and re-arming speak of the slot's own repeats. -/
theorem everyStepKeepsTheSlots : Obligations.EveryStepKeepsTheSlots := by
  rintro s t hm ⟨hcopy, -, hidle, -⟩ h hstep
  have hkept : FiredSlotsSound t := by
    refine step_keeps (P := fun s => FiredSlotsSound s ∧ IdleInReset s) (Q := FiredSlotsSound)
      (fun s t hc h => ?_) (fun s t hc h => ?_) (fun s h => h.1) (fun s e rest hd h => ?_) (fun s pins h => ?_)
      (fun s q h => h) ⟨⟨hm, hcopy, h⟩, hidle⟩ hstep
    · obtain ⟨⟨hm, hcopy, h⟩, hidle⟩ := h
      exact ⟨⟨hc.listMatches hidle hm, hc.copySound hm hidle hcopy, hc.slotsSound hm hcopy h⟩, hc.idleInReset hidle⟩
    · obtain ⟨hm, hcopy, h⟩ := h
      exact ⟨hc.listMatches hm, hc.copySound hcopy, hc.slotsSound hm hcopy h⟩
    · obtain ⟨⟨hm, -, h⟩, -⟩ := h
      exact ⟨takeHead_listMatches hd hm, fun c stage hc _ => by cases hc; rfl, h⟩
    · exact ⟨listMatches_fullResetImage _ _ _ _, copySound_idle rfl, slotsSound_fullResetImage _ _ _ _⟩
  exact hkept.2.2

end Slots

/-! ### Suspension (R81, R83) -/

section Suspension
variable {s t : State} {i : SlotId}

/-- A walk between PENDING and SUSPENDED. -/
def Work.moves : Work → Bool
  | .suspendWalk _ _ | .resumeWalk _ _ => true
  | .finished _ | .disarmWalk _ _ | .safeSlots _ | .safeLines _ | .resort _ _ | .softReset _ => false

/-- No such walk is in hand. -/
def State.NoWalk (s : State) : Prop := ∀ w, s.cmd.inHand = some w → w.moves = false

/-- A slot is placed as the flag of its group says (R16, R79). -/
structure PlacedByFlag (s : State) (i : SlotId) : Prop where
  pending   : (s.slot i).state = .pending → (s.group (s.slot i).desc.group).suspended = false
  suspended : (s.slot i).state = .suspended → (s.group (s.slot i).desc.group).suspended = true

/-- With no walk in hand every slot is placed by its group's flag. -/
theorem suspensionSound_noWalk (hw : s.NoWalk) : SuspensionSound s ↔ ∀ i, PlacedByFlag s i := by
  constructor
  · rintro ⟨hp, hs, -, -⟩ i
    refine ⟨fun h => Bool.eq_false_iff.2 fun hf => ?_, fun h => by_contra fun hf => ?_⟩
    · obtain ⟨n, hn, -⟩ := hp i h hf
      cases hw _ hn
    · obtain ⟨n, hn, -⟩ := hs i h (Bool.eq_false_iff.2 hf)
      cases hw _ hn
  · intro h
    refine ⟨fun i hi hf => ?_, fun i hi hf => ?_, fun g n hn => ?_, fun g n hn => ?_⟩
    · rw [(h i).pending hi] at hf; cases hf
    · rw [(h i).suspended hi] at hf; cases hf
    · cases hw _ hn
    · cases hw _ hn

/-- Nothing that R81 and R83 speak of has changed. -/
theorem SuspensionSound.of_eq (h : SuspensionSound s) (hg : t.groups = s.groups) (hw : t.cmd.inHand = s.cmd.inHand)
    (hs : ∀ j, (t.slot j).state = (s.slot j).state ∧ ((t.slot j).desc.group = (s.slot j).desc.group)) :
    SuspensionSound t := by
  have hgr : ∀ g, t.group g = s.group g := fun g => by rw [State.group, hg]; rfl
  obtain ⟨h1, h2, h3, h4⟩ := h
  refine ⟨fun i => ?_, fun i => ?_, fun g n => ?_, fun g n => ?_⟩
  · rw [(hs i).1, (hs i).2, hgr, hw]; exact h1 i
  · rw [(hs i).1, (hs i).2, hgr, hw]; exact h2 i
  · rw [hgr, hw]; exact h3 g n
  · rw [hgr, hw]; exact h4 g n

/-- A slot that is placed by its group's flag, or is not armed, keeps R81 and R83 whatever it was before. -/
theorem SuspensionSound.setSlot (h : SuspensionSound s) {r : Slot}
    (hp : r.state = .pending → (s.group r.desc.group).suspended = false)
    (hs : r.state = .suspended → (s.group r.desc.group).suspended = true) : SuspensionSound (s.setSlot i r) := by
  obtain ⟨h1, h2, h3, h4⟩ := h
  refine ⟨fun j => ?_, fun j => ?_, h3, h4⟩
  all_goals
    rw [State.setSlot_slot]
    split
  · intro hj hf; rw [State.setSlot_group, hp hj] at hf; cases hf
  · exact h1 j
  · intro hj hf; rw [State.setSlot_group, hs hj] at hf; cases hf
  · exact h2 j

theorem SuspensionSound.placeSlot (h : SuspensionSound s) (r : Slot) (due ref : Tick) :
    SuspensionSound (s.placeSlot i r due ref) := by
  unfold State.placeSlot
  split
  · next hf => exact h.setSlot (fun hp => by cases hp) fun _ => hf
  · next hf => exact SuspensionSound.of_eq (h.setSlot (i := i) (r := { r with state := .pending, due := due })
      (fun _ => Bool.eq_false_iff.2 hf) fun hp => by cases hp) rfl rfl fun _ => ⟨rfl, rfl⟩

/-- A record of the state and group that the slot has. -/
theorem SuspensionSound.setSlot_same (h : SuspensionSound s) {r : Slot} (hs : r.state = (s.slot i).state)
    (hd : r.desc = (s.slot i).desc) : SuspensionSound (s.setSlot i r) := by
  refine h.of_eq rfl rfl fun j => ?_
  rw [State.setSlot_slot]
  split
  · next e => rw [hs, hd, e]; exact ⟨rfl, rfl⟩
  · exact ⟨rfl, rfl⟩

/-- A record that is not armed. -/
theorem SuspensionSound.setSlot_unarmed (h : SuspensionSound s) {r : Slot} (hr : r.state = .empty ∨ r.state = .loaded) :
    SuspensionSound (s.setSlot i r) := by
  refine h.setSlot (fun hp => ?_) fun hp => ?_
  · rcases hr with hr | hr <;> cases hr.symm.trans hp
  · rcases hr with hr | hr <;> cases hr.symm.trans hp

theorem FireChange.suspensionSound (hc : FireChange s t) (h : SuspensionSound s) : SuspensionSound t := by
  cases hc with
  | post => rw [post_eq]; exact h
  | @place c =>
    suffices SuspensionSound (s.accountAndPlace c) from this
    unfold State.accountAndPlace
    dsimp only
    split
    · refine h.setSlot_unarmed ?_
      unfold Slot.completed
      split
      · exact .inl rfl
      · exact .inr rfl
    · exact h.placeSlot _ _ _
  | arm => exact h.placeSlot _ _ _
  | _ => exact h

/-- With plain work, or none, in hand no walk is. -/
theorem State.PlainWork.noWalk (h : s.PlainWork) : s.NoWalk := by
  obtain ⟨w, hw, hp⟩ := h
  intro v hv
  cases hw.symm.trans hv
  cases w with
  | suspendWalk | resumeWalk => cases hp
  | _ => rfl

theorem noWalk_of {w : Work} (h : s.cmd.inHand = some w) (hw : w.moves = false) : s.NoWalk := fun v hv => by
  cases h.symm.trans hv; exact hw

/-- Work that is no walk takes the place of work that is none. -/
theorem SuspensionSound.withWork (h : SuspensionSound s) (hs : s.NoWalk) (ht : t.NoWalk) (hg : t.groups = s.groups)
    (hslots : t.slots = s.slots) : SuspensionSound t := by
  rw [suspensionSound_noWalk ht]
  intro i
  obtain ⟨hp, hsus⟩ := (suspensionSound_noWalk hs).1 h i
  have hsl : t.slot i = s.slot i := by rw [State.slot, hslots]; rfl
  have hgr : t.group (s.slot i).desc.group = s.group (s.slot i).desc.group := by rw [State.group, hg]; rfl
  exact ⟨by rw [hsl, hgr]; exact hp, by rw [hsl, hgr]; exact hsus⟩

/-- A walk's next slot lies right behind the one it visits. -/
theorem afterSlot_cases (i : SlotId) (visit : SlotId → Work) (last : Work) :
    (∃ j : SlotId, j.val = i.val + 1 ∧ afterSlot i visit last = visit j)
      ∨ (i.val = 63 ∧ afterSlot i visit last = last) := by
  unfold afterSlot nextSlot
  by_cases h : i.val + 1 < 64
  · rw [dif_pos h]; exact .inl ⟨_, rfl, rfl⟩
  · rw [dif_neg h]; exact .inr ⟨by omega, rfl⟩

/-- A slot that a walk has still to visit, other than the one it visits now, it goes on to. -/
theorem afterSlot_reaches {i j : SlotId} (hij : i ≤ j) (hne : j ≠ i) (visit : SlotId → Work) (last : Work) :
    ∃ n, afterSlot i visit last = visit n ∧ n ≤ j := by
  have hlt : i.val < j.val := lt_of_le_of_ne hij fun e => hne (Fin.ext e.symm)
  rcases afterSlot_cases i visit last with ⟨n, hn, he⟩ | ⟨h63, -⟩
  · exact ⟨n, he, Fin.le_def.2 (by omega)⟩
  · have := j.isLt
    omega

/-- The visit of SUSPEND_GROUP leaves no PENDING member where it has been (R81). -/
theorem suspendVisit_visited (s : State) (g : GroupId) (i : SlotId) :
    (∀ j, j ≠ i → (s.suspendVisit g i).slot j = s.slot j)
      ∧ ((s.suspendVisit g i).slot i).desc = (s.slot i).desc
      ∧ ((s.slot i).desc.group = g → ((s.suspendVisit g i).slot i).state ≠ .pending)
      ∧ (((s.suspendVisit g i).slot i).state = .pending → (s.slot i).state = .pending)
      ∧ (((s.suspendVisit g i).slot i).state = .suspended → (s.slot i).state = .suspended ∨ (s.slot i).desc.group = g) := by
  rcases suspendVisit_cases s g i with ⟨hg, hp, he⟩ | ⟨hn, he⟩ <;> rw [he]
  · refine ⟨fun j hj => State.setSlot_slot_of_ne (s.removeSlot i) (Ne.symm hj) _, ?_⟩
    rw [State.setSlot_slot_self]
    exact ⟨rfl, fun _ => nofun, fun _ => hp, fun _ => .inr hg⟩
  · exact ⟨fun _ _ => rfl, rfl, fun hg => hn.resolve_left fun h => h hg, fun h => h, fun h => .inl h⟩

/-- The visit of RESUME_GROUP leaves no SUSPENDED member where it has been (R83). -/
theorem resumeVisit_visited (s : State) (g : GroupId) (i : SlotId) :
    (∀ j, j ≠ i → (s.resumeVisit g i).slot j = s.slot j)
      ∧ ((s.resumeVisit g i).slot i).desc = (s.slot i).desc
      ∧ ((s.slot i).desc.group = g → ((s.resumeVisit g i).slot i).state ≠ .suspended)
      ∧ (((s.resumeVisit g i).slot i).state = .suspended → (s.slot i).state = .suspended)
      ∧ (((s.resumeVisit g i).slot i).state = .pending → (s.slot i).state = .pending ∨ (s.slot i).desc.group = g) := by
  rcases resumeVisit_cases s g i with ⟨hg, hp, he⟩ | ⟨hn, he⟩ <;> rw [he]
  · refine ⟨fun j hj => s.setSlot_slot_of_ne (Ne.symm hj) _, ?_⟩
    rw [State.insertSlot_slot, State.setSlot_slot_self]
    exact ⟨rfl, fun _ => nofun, fun _ => hp, fun _ => .inr hg⟩
  · exact ⟨fun _ _ => rfl, rfl, fun hg => hn.resolve_left fun h => h hg, fun h => h, fun h => .inl h⟩

/-- A visit of the SUSPEND_GROUP walk (R81). -/
theorem SuspensionSound.suspendVisit (h : SuspensionSound s) {g : GroupId}
    (hw : s.cmd.inHand = some (.suspendWalk g i)) :
    SuspensionSound ((s.suspendVisit g i).work (afterSlot i (.suspendWalk g) (.finished .ok))) := by
  obtain ⟨h1, h2, h3, -⟩ := h
  obtain ⟨hne, hdesc, hmember, hback, hnew⟩ := suspendVisit_visited s g i
  have hgroup : ∀ k, ((s.suspendVisit g i).work (afterSlot i (.suspendWalk g) (.finished .ok))).group k = s.group k := by
    intro k
    obtain ⟨_, _, hf⟩ := suspendVisit_beside_slots s g i
    rw [hf]; rfl
  refine ⟨fun j hj hf => ?_, fun j hj hf => ?_, fun g' n hn => ?_, fun g' n hn => ?_⟩
  all_goals rw [hgroup] at *
  · rw [State.work_slot] at hj hf ⊢
    have hs : (s.slot j).state = .pending ∧ ((s.suspendVisit g i).slot j).desc = (s.slot j).desc := by
      by_cases hji : j = i
      · subst hji; exact ⟨hback hj, hdesc⟩
      · rw [hne j hji] at hj ⊢; exact ⟨hj, rfl⟩
    rw [hs.2] at hf ⊢
    obtain ⟨n, hn, hle⟩ := h1 j hs.1 hf
    cases hw.symm.trans hn
    obtain ⟨m, hm, hmj⟩ := afterSlot_reaches hle (fun e => by subst e; exact hmember rfl hj) (.suspendWalk (s.slot j).desc.group)
      (.finished .ok)
    exact ⟨m, congrArg some hm, hmj⟩
  · rw [State.work_slot] at hj hf
    by_cases hji : j = i
    · subst hji
      rw [hdesc] at hf
      rcases hnew hj with hs | hg
      · obtain ⟨n, hn, -⟩ := h2 j hs hf
        cases hw.symm.trans hn
      · rw [hg, h3 g _ hw] at hf; cases hf
    · rw [hne j hji] at hj hf
      obtain ⟨n, hn, -⟩ := h2 j hj hf
      cases hw.symm.trans hn
  · rcases afterSlot_cases i (.suspendWalk g) (.finished .ok) with ⟨m, -, he⟩ | ⟨-, he⟩
    · cases (congrArg some he).symm.trans hn
      exact h3 g _ hw
    · cases (congrArg some he).symm.trans hn
  · rcases afterSlot_cases i (.suspendWalk g) (.finished .ok) with ⟨m, -, he⟩ | ⟨-, he⟩
    · cases (congrArg some he).symm.trans hn
    · cases (congrArg some he).symm.trans hn

/-- A visit of the RESUME_GROUP walk (R83). -/
theorem SuspensionSound.resumeVisit (h : SuspensionSound s) {g : GroupId}
    (hw : s.cmd.inHand = some (.resumeWalk g i)) :
    SuspensionSound ((s.resumeVisit g i).work (afterSlot i (.resumeWalk g) (.finished .ok))) := by
  obtain ⟨h1, h2, -, h4⟩ := h
  obtain ⟨hne, hdesc, hmember, hback, hnew⟩ := resumeVisit_visited s g i
  have hgroup : ∀ k, ((s.resumeVisit g i).work (afterSlot i (.resumeWalk g) (.finished .ok))).group k = s.group k := by
    intro k
    obtain ⟨_, _, hf⟩ := resumeVisit_beside_slots s g i
    rw [hf]; rfl
  refine ⟨fun j hj hf => ?_, fun j hj hf => ?_, fun g' n hn => ?_, fun g' n hn => ?_⟩
  all_goals rw [hgroup] at *
  · rw [State.work_slot] at hj hf
    by_cases hji : j = i
    · subst hji
      rw [hdesc] at hf
      rcases hnew hj with hs | hg
      · obtain ⟨n, hn, -⟩ := h1 j hs hf
        cases hw.symm.trans hn
      · rw [hg, h4 g _ hw] at hf; cases hf
    · rw [hne j hji] at hj hf
      obtain ⟨n, hn, -⟩ := h1 j hj hf
      cases hw.symm.trans hn
  · rw [State.work_slot] at hj hf ⊢
    have hs : (s.slot j).state = .suspended ∧ ((s.resumeVisit g i).slot j).desc = (s.slot j).desc := by
      by_cases hji : j = i
      · subst hji; exact ⟨hback hj, hdesc⟩
      · rw [hne j hji] at hj ⊢; exact ⟨hj, rfl⟩
    rw [hs.2] at hf ⊢
    obtain ⟨n, hn, hle⟩ := h2 j hs.1 hf
    cases hw.symm.trans hn
    obtain ⟨m, hm, hmj⟩ := afterSlot_reaches hle (fun e => by subst e; exact hmember rfl hj) (.resumeWalk (s.slot j).desc.group)
      (.finished .ok)
    exact ⟨m, congrArg some hm, hmj⟩
  · rcases afterSlot_cases i (.resumeWalk g) (.finished .ok) with ⟨m, -, he⟩ | ⟨-, he⟩
    · cases (congrArg some he).symm.trans hn
    · cases (congrArg some he).symm.trans hn
  · rcases afterSlot_cases i (.resumeWalk g) (.finished .ok) with ⟨m, -, he⟩ | ⟨-, he⟩
    · cases (congrArg some he).symm.trans hn
      exact h4 g _ hw
    · cases (congrArg some he).symm.trans hn

/-- The taking of SUSPEND_GROUP: the walk has every slot of the group still to visit (R81). -/
theorem SuspensionSound.suspendGroup (h : SuspensionSound s) (hw : s.NoWalk) (g : GroupId) (x : Tick) :
    SuspensionSound ((s.setGroup g ⟨true, x⟩).work (.suspendWalk g 0)) := by
  have hplaced := (suspensionSound_noWalk hw).1 h
  refine ⟨fun j hj hf => ?_, fun j hj hf => ?_, fun g' n hn => ?_, fun g' n hn => by cases hn⟩
  · rw [State.work_slot, State.setGroup_slot] at hj hf ⊢
    rw [State.work_group, State.setGroup_group] at hf
    split at hf
    · next e => exact ⟨0, by rw [← e]; rfl, Fin.zero_le _⟩
    · rw [(hplaced j).pending hj] at hf; cases hf
  · rw [State.work_slot, State.setGroup_slot] at hj hf
    rw [State.work_group, State.setGroup_group] at hf
    split at hf
    · cases hf
    · rw [(hplaced j).suspended hj] at hf; cases hf
  · cases hn
    rw [State.work_group, State.setGroup_group_self]

/-- The taking of RESUME_GROUP: the walk has every slot of the group still to visit (R83). -/
theorem SuspensionSound.resumeGroup (h : SuspensionSound s) (hw : s.NoWalk) (g : GroupId) (x : Tick) :
    SuspensionSound ((s.setGroup g ⟨false, x⟩).work (.resumeWalk g 0)) := by
  have hplaced := (suspensionSound_noWalk hw).1 h
  refine ⟨fun j hj hf => ?_, fun j hj hf => ?_, fun g' n hn => (by cases hn), fun g' n hn => ?_⟩
  · rw [State.work_slot, State.setGroup_slot] at hj hf
    rw [State.work_group, State.setGroup_group] at hf
    split at hf
    · cases hf
    · rw [(hplaced j).pending hj] at hf; cases hf
  · rw [State.work_slot, State.setGroup_slot] at hj hf ⊢
    rw [State.work_group, State.setGroup_group] at hf
    split at hf
    · next e => exact ⟨0, by rw [← e]; rfl, Fin.zero_le _⟩
    · rw [(hplaced j).suspended hj] at hf; cases hf
  · cases hn
    rw [State.work_group, State.setGroup_group_self]

/-- With every slot EMPTY and no walk in hand nothing is asked of the groups. -/
theorem suspensionSound_empty (hw : s.NoWalk) (h : ∀ i : SlotId, (s.slot i).state = .empty) : SuspensionSound s :=
  (suspensionSound_noWalk hw).2 fun i =>
    ⟨fun hp => (by cases (h i).symm.trans hp), fun hp => (by cases (h i).symm.trans hp)⟩

theorem Change.suspensionSound (hc : Change s t) (hempty : EmptyInReset s) (h : SuspensionSound s) :
    SuspensionSound t := by
  have shifted : ∀ d, SuspensionSound (s.shiftStored d) := fun d => by
    refine h.of_eq rfl rfl fun j => ?_
    rw [shiftStored_slot]
    split <;> exact ⟨rfl, rfl⟩
  cases hc with
  | fire hf => exact hf.suspensionSound h
  | cmd x hx => exact h.of_eq rfl hx fun _ => ⟨rfl, rfl⟩
  | taken code hnone =>
    exact h.withWork (fun w hw => by cases hnone.symm.trans hw) (noWalk_of (w := .finished .ok) rfl rfl) rfl rfl
  | work w hp hw => exact h.withWork hp.noWalk (State.PlainWork.noWalk ⟨w, rfl, hw⟩) rfl rfl
  | complete x hp hx =>
    refine h.withWork ?_ (fun w hw => by cases hx.symm.trans hw) rfl rfl
    rcases hp with hp | hp
    · exact hp.noWalk
    · exact noWalk_of hp rfl
  | beginReset hp => exact h.withWork hp.noWalk (noWalk_of (w := .softReset .endOfFire) rfl rfl) rfl rfl
  | fireEnded hw => exact h.withWork (noWalk_of hw rfl) (noWalk_of (w := .softReset .capture) rfl rfl) rfl rfl
  | resetStage stage hw h2 h10 =>
    have hs := noWalk_of hw rfl
    cases stage with
    | endOfFire => exact absurd rfl h2
    | completion => exact absurd rfl h10
    | slots =>
      refine suspensionSound_empty (noWalk_of (w := .softReset .groups) rfl rfl) fun i => ?_
      simp [State.resetStage, State.emptySlots, State.slot, Slot.cleared, State.work]
    | groups => exact suspensionSound_empty (noWalk_of (w := .softReset .lines) rfl rfl) (hempty _ hw rfl)
    | capture => exact h.withWork hs (noWalk_of (w := .softReset .slots) rfl rfl) rfl rfl
    | lines => exact h.withWork hs (noWalk_of (w := .softReset .clock) rfl rfl) rfl rfl
    | clock => exact h.withWork hs (noWalk_of (w := .softReset .time) rfl rfl) rfl rfl
    | time => exact h.withWork hs (noWalk_of (w := .softReset .queue) rfl rfl) rfl rfl
    | queue => exact h.withWork hs (noWalk_of (w := .softReset .completion) rfl rfl) rfl rfl
  | slot r _ _ hr => exact h.setSlot_unarmed hr
  | remaining x => exact h.setSlot_same (by rfl) (by rfl)
  | @disarm i =>
    rcases disarmSlot_cases s i with ⟨-, he⟩ | ⟨-, he⟩ | he <;> rw [he]
    · exact SuspensionSound.setSlot_unarmed (s := s.removeSlot i) h (.inr rfl)
    · exact h.setSlot_unarmed (.inr rfl)
    · exact h
  | @retime i due => exact SuspensionSound.setSlot_same (s := s.removeSlot i) (i := i) h (by rfl) (by rfl)
  | suspendGroup g hp => exact h.suspendGroup hp.noWalk g _
  | resumeGroup g hp => exact h.resumeGroup hp.noWalk g _
  | suspendVisit hw => exact h.suspendVisit hw
  | resumeVisit hw => exact h.resumeVisit hw
  | settime => exact shifted _
  | sync => exact shifted _
  | beginResort t e hp => exact h.withWork hp.noWalk (noWalk_of (w := .resort t e) rfl rfl) rfl rfl
  | resort hw => exact h.withWork (noWalk_of hw rfl) (noWalk_of (w := .finished .ok) rfl rfl) rfl rfl
  | _ => exact h

/-- Settles O53: each change keeps every slot placed by its group's flag, but for the slots a walk has still to reach. -/
theorem everyStepKeepsSuspension : Obligations.EveryStepKeepsSuspension := by
  rintro s t ⟨-, -, hidle, hempty⟩ h hstep
  refine step_keeps (P := fun s => SuspensionSound s ∧ IdleInReset s ∧ EmptyInReset s) (Q := SuspensionSound)
    (fun s t hc h => ?_) (fun s t hc h => hc.suspensionSound h) (fun s h => h.1) (fun s e rest hd h => h.1)
    (fun s pins h => ?_) (fun s q h => h) ⟨h, hidle, hempty⟩ hstep
  · obtain ⟨h, hidle, hempty⟩ := h
    exact ⟨hc.suspensionSound hempty h, hc.idleInReset hidle, hc.emptyInReset hidle hempty⟩
  · refine suspensionSound_empty (fun w hw => by cases hw) fun i => ?_
    simp [State.slot, State.fullResetImage, Slot.cleared]

end Suspension

end Sys2Proof.Machine
end

section
/-! What moves the Timebase (05, section 5.1): each field changes only by the happenings that R91 names, row by row. -/

namespace Sys2Proof.Machine

/-! ### The rows that carry a code to CMD (R141) -/

/-- The row of a command is a write of its code to CMD, handed to the command's owner. -/
theorem exec_of_code {c : Instr} {code : Byte} (h : c.code = some code) (s : State) :
    exec c s = .next (s.writeCmdByte code (commandEffect code)) := by
  cases c <;> cases h <;> rfl

/-! ### What leaves the Timebase alone -/

section Frames
variable {s : State}

@[simp] theorem post_timebase (stamp : Tick) (body : NotificationBody) : (s.post stamp body).timebase = s.timebase := by
  rw [post_eq]

@[simp] theorem postIf_timebase (stamp : Tick) (body : Option NotificationBody) :
    (s.postIf stamp body).timebase = s.timebase := by
  rw [postIf_eq]

@[simp] theorem claim_timebase (i : SlotId) : (s.claim i).timebase = s.timebase := by
  obtain ⟨_, _, _, _, _, h⟩ := claim_frame s i; rw [h]

@[simp] theorem placeSlot_timebase (i : SlotId) (r : Slot) (due ref : Tick) :
    (s.placeSlot i r due ref).timebase = s.timebase := by
  obtain ⟨_, _, h, -⟩ := placeSlot_frame s i r due ref; rw [h]

@[simp] theorem armSlot_timebase (i : SlotId) (due ref : Tick) : (s.armSlot i due ref).timebase = s.timebase :=
  placeSlot_timebase _ _ _ _

@[simp] theorem disarmSlot_timebase (i : SlotId) : (s.disarmSlot i).timebase = s.timebase := by
  obtain ⟨_, _, h⟩ := disarmSlot_beside_slots s i; rw [h]

@[simp] theorem suspendVisit_timebase (g : GroupId) (i : SlotId) : (s.suspendVisit g i).timebase = s.timebase := by
  obtain ⟨_, _, h⟩ := suspendVisit_beside_slots s g i; rw [h]

@[simp] theorem resumeVisit_timebase (g : GroupId) (i : SlotId) : (s.resumeVisit g i).timebase = s.timebase := by
  obtain ⟨_, _, h⟩ := resumeVisit_beside_slots s g i; rw [h]

@[simp] theorem disarmVisit_timebase (g : GroupId) (i : SlotId) : (s.disarmVisit g i).timebase = s.timebase := by
  unfold State.disarmVisit
  split
  · exact disarmSlot_timebase i
  · rfl

@[simp] theorem postTrips_timebase (n : Nat) : (s.postTrips n).timebase = s.timebase := by rw [postTrips_eq]

@[simp] theorem commitLine_timebase (new : LineConfig) : (s.commitLine new).timebase = s.timebase := by
  unfold State.commitLine
  split
  · rfl
  · exact postIf_timebase _ _

@[simp] theorem writeLineConfigTop_timebase (v : Byte) : (s.writeLineConfigTop v).timebase = s.timebase :=
  commitLine_timebase _

@[simp] theorem takeArms_timebase : s.takeArms.timebase = s.timebase :=
  takeArms_keeps (P := fun u => u.timebase = s.timebase) (fun u k h => (takeArm_timebase u k).trans h) rfl

@[simp] theorem handleEdge_timebase (k : ChannelId) (edge : Edge) (stamp : Tick) :
    (s.handleEdge k edge stamp).timebase = s.timebase := by
  unfold State.handleEdge
  dsimp only
  split
  · split
    · exact offerRecord_timebase s _
    · split <;> simp
  · rfl

@[simp] theorem acceptEdge_timebase (k : ChannelId) (level : Bool) (stamp : Tick) :
    (s.acceptEdge k level stamp).timebase = s.timebase :=
  (handleEdge_timebase k _ stamp).trans (takeArm_timebase s k)

@[simp] theorem followInput_timebase (k : ChannelId) (level : Bool) : (s.followInput k level).timebase = s.timebase := by
  unfold State.followInput
  dsimp only
  split
  · split
    · split
      · rfl
      · split
        · exact acceptEdge_timebase _ _ _
        · rfl
    · rfl
  · rfl

@[simp] theorem commitChannel_timebase (x : BitVec 48) : (s.commitChannel x).timebase = s.timebase := by
  unfold State.commitChannel
  dsimp only
  split
  · rfl
  · split
    · rfl
    · split
      · rfl
      · split
        · exact acceptEdge_timebase _ _ _
        · rfl

@[simp] theorem writeCapConfigTop_timebase (v : Byte) : (s.writeCapConfigTop v).timebase = s.timebase :=
  commitChannel_timebase _

@[simp] theorem writeArg_timebase (k : Nat) (v : Byte) : (s.writeArg k v).timebase = s.timebase := by
  unfold State.writeArg
  split <;> rfl

@[simp] theorem writePostMask_timebase (k : Nat) (v : Byte) : (s.writePostMask k v).timebase = s.timebase := by
  unfold State.writePostMask
  dsimp only
  split <;> rfl

@[simp] theorem popNotification_timebase : s.popNotification.timebase = s.timebase := by
  unfold State.popNotification
  split <;> rfl

@[simp] theorem popCapture_timebase : s.popCapture.timebase = s.timebase := by
  unfold State.popCapture
  split <;> rfl

@[simp] theorem latchAt_timebase (a : Nat) : (s.latchAt a).timebase = s.timebase := by
  have pick : ∀ {P : Prop} [Decidable P] {t u : State}, t.timebase = s.timebase → u.timebase = s.timebase →
      (if P then t else u).timebase = s.timebase := by
    intro P _ t u ht hu; split; exacts [ht, hu]
  unfold State.latchAt
  exact pick rfl <| pick rfl <| pick rfl <| pick rfl <| pick rfl <| pick popNotification_timebase <|
    pick popCapture_timebase rfl

@[simp] theorem readByte_timebase : s.readByte.timebase = s.timebase := by
  unfold State.readByte
  dsimp only
  split <;> exact latchAt_timebase _

@[simp] theorem readAt_timebase (a : Addr) : (s.readAt a).timebase = s.timebase := by
  unfold State.readAt
  split
  · exact readByte_timebase
  · rfl

/-- A byte that acts on anything but the Timebase. -/
theorem writeAt_timebase {act : State → State} (h : (act s).timebase = s.timebase) (a : Addr) :
    (s.writeAt a act).timebase = s.timebase := by
  unfold State.writeAt
  split
  · exact h
  · rfl

/-- A slot command's owner leaves the Timebase alone where its act does. -/
theorem slotCommand_timebase {act : SlotId → State → State} (h : ∀ i u, (act i u).timebase = u.timebase) :
    (slotCommand act s).timebase = s.timebase := by
  unfold slotCommand
  split
  · rfl
  · exact (h _ _).trans (claim_timebase _)

theorem loadAt_timebase (i : SlotId) (s : State) : (loadAt i s).timebase = s.timebase := by
  unfold loadAt
  split
  · rfl
  · rfl
  all_goals split <;> rfl

theorem armAt_timebase (i : SlotId) (s : State) : (armAt i s).timebase = s.timebase := by
  unfold armAt
  split
  · rfl
  · rfl
  · rfl
  · split
    · rfl
    · split
      · rfl
      · split
        · rfl
        · exact armSlot_timebase _ _ _

theorem disarmAt_timebase (i : SlotId) (s : State) : (disarmAt i s).timebase = s.timebase := by
  unfold disarmAt
  split
  · rfl
  · rfl
  all_goals exact disarmSlot_timebase i

theorem releaseAt_timebase (i : SlotId) (s : State) : (releaseAt i s).timebase = s.timebase := by
  unfold releaseAt
  split <;> rfl

theorem retimeAt_timebase (i : SlotId) (s : State) : (retimeAt i s).timebase = s.timebase := by
  unfold retimeAt
  dsimp only
  split
  · rfl
  · rfl
  · rfl
  · split <;> rfl

end Frames

/-! ### What the owners of the commands do to the Timebase -/

section Owners
variable {s t : State} {code : Byte}

/-- What a command does to the Timebase, field by field (R91). -/
structure CommandMoves (s t : State) (code : Byte) : Prop where
  time       : t.timebase.t ≠ s.timebase.t → code = 0x22 ∨ code = 0x3F
  epoch      : t.timebase.e ≠ s.timebase.e → code = 0x22 ∨ code = 0x3F
  prescaler  : t.timebase.prescaler ≠ s.timebase.prescaler → code = 0x20
  running    : t.timebase.running ≠ s.timebase.running → code = 0x20 ∨ code = 0x21 ∨ code = 0x3F
  marker     : t.timebase.marker = s.timebase.marker
  syncEnable : t.timebase.syncEnable = s.timebase.syncEnable
  syncVal    : t.timebase.syncVal = s.timebase.syncVal
  phase      : t.timebase.phase ≠ s.timebase.phase →
    t.timebase.phase = (if t.timebase.running then some 0 else none)
      ∧ (code = 0x20 ∨ code = 0x21 ∨ code = 0x3F ∨ (t.clock.source = .int ∧ code = 0x28))

theorem CommandMoves.same (h : t.timebase = s.timebase) : CommandMoves s t code := by
  constructor <;> rw [h]
  all_goals exact fun hne => absurd rfl hne

theorem startCommand_moves (s : State) : CommandMoves s (startCommand s) 0x20 := by
  unfold startCommand
  split
  · exact .same rfl
  · split
    · exact .same rfl
    · exact ⟨fun h => absurd rfl h, fun h => absurd rfl h, fun _ => rfl, fun _ => .inl rfl, rfl, rfl, rfl,
        fun _ => ⟨rfl, .inl rfl⟩⟩

@[simp] theorem stopRunning_timebase (s : State) :
    s.stopRunning.timebase = { s.timebase with running := false, phase := none } := by
  show ({ s.takeArms.timebase with running := false, phase := none } : Timebase) = _
  rw [takeArms_timebase]

theorem stopCommand_moves (s : State) : CommandMoves s (stopCommand s) 0x21 := by
  unfold stopCommand
  split
  · have ht : (s.stopRunning.finish .ok).timebase = _ := stopRunning_timebase s
    constructor <;> rw [ht]
    · exact fun h => absurd rfl h
    · exact fun h => absurd rfl h
    · exact fun h => absurd rfl h
    · exact fun _ => .inr (.inl rfl)
    · exact fun _ => ⟨rfl, .inr (.inl rfl)⟩
  · exact .same rfl

theorem settimeCommand_moves (s : State) : CommandMoves s (settimeCommand s) 0x22 := by
  unfold settimeCommand
  split
  · exact .same rfl
  · split
    · exact .same rfl
    · exact ⟨fun _ => .inl rfl, fun _ => .inl rfl, fun h => absurd rfl h, fun h => absurd rfl h, rfl, rfl, rfl,
        fun h => absurd rfl h⟩
    · exact .same (endFire_timebase s)

theorem switchClockCommand_moves (s : State) : CommandMoves s (switchClockCommand s) 0x28 := by
  unfold switchClockCommand
  split
  · exact .same rfl
  · split
    · exact .same rfl
    · split
      · exact .same rfl
      · split
        · have ht : (s.switchToInt.finish .ok).timebase
              = { s.timebase with phase := if s.timebase.running then some 0 else none } := post_timebase _ _
          have hc : (s.switchToInt.finish .ok).clock.source = .int := by
            rw [State.finish_clock, State.switchToInt, post_eq]
            rfl
          constructor <;> rw [ht]
          · exact fun h => absurd rfl h
          · exact fun h => absurd rfl h
          · exact fun h => absurd rfl h
          · exact fun h => absurd rfl h
          · exact fun _ => ⟨rfl, .inr (.inr (.inr ⟨hc, rfl⟩))⟩
        · exact .same rfl

/-- A stage of SOFT_RESET loads T and E, or leaves the Timebase (R150). -/
theorem resetStage_timebase (s : State) (stage : ResetStage) :
    ∃ t e, (s.resetStage stage).timebase = { s.timebase with t := t, e := e } := by
  cases stage with
  | endOfFire => exact ⟨s.timebase.t, s.timebase.e, endFire_timebase s⟩
  | time => exact ⟨0, 0, rfl⟩
  | _ => exact ⟨s.timebase.t, s.timebase.e, rfl⟩

/-- Stages of SOFT_RESET load T and E, or leave the Timebase (R150). -/
theorem runReset_timebase (n : Nat) (s : State) :
    ∃ t e, (s.runReset n).timebase = { s.timebase with t := t, e := e } := by
  induction n generalizing s with
  | zero => exact ⟨_, _, rfl⟩
  | succ n ih =>
    unfold State.runReset
    split
    · next stage _ =>
      obtain ⟨t, e, h⟩ := ih (s.resetStage stage)
      obtain ⟨t', e', h'⟩ := resetStage_timebase s stage
      exact ⟨t, e, by rw [h, h']⟩
    · exact ⟨_, _, rfl⟩

theorem softResetCommand_moves (s : State) : CommandMoves s (softResetCommand s) 0x3F := by
  obtain ⟨t, e, h⟩ := runReset_timebase (min s.further 8) (s.resetStop.work (.softReset .endOfFire))
  have ht : (softResetCommand s).timebase = { s.resetStop.timebase with t := t, e := e } := h
  have hstop : s.resetStop.timebase = s.timebase
      ∨ s.resetStop.timebase = { s.timebase with running := false, phase := none } := by
    unfold State.resetStop
    split
    · exact .inr (stopRunning_timebase s)
    · exact .inl rfl
  rcases hstop with hs | hs <;> rw [hs] at ht <;> constructor <;> rw [ht]
  · exact fun _ => .inr rfl
  · exact fun _ => .inr rfl
  · exact fun h => absurd rfl h
  · exact fun h => absurd rfl h
  · exact fun h => absurd rfl h
  · exact fun _ => .inr rfl
  · exact fun _ => .inr rfl
  · exact fun h => absurd rfl h
  · exact fun _ => .inr (.inr rfl)
  · exact fun _ => ⟨rfl, .inr (.inr (.inl rfl))⟩

theorem groupCommands_timebase (s : State) : (suspendGroupCommand s).timebase = s.timebase
    ∧ (resumeGroupCommand s).timebase = s.timebase ∧ (disarmGroupCommand s).timebase = s.timebase := by
  unfold suspendGroupCommand resumeGroupCommand disarmGroupCommand
  cases groupArg (s.arg 0) with
  | none => exact ⟨rfl, rfl, rfl⟩
  | some g =>
    dsimp only
    refine ⟨?_, ?_, rfl⟩
    · split <;> rfl
    · split <;> rfl

theorem lineCommands_timebase (s : State) : (loadPatternCommand s).timebase = s.timebase
    ∧ (clearPatternCommand s).timebase = s.timebase ∧ (clearTripCommand s).timebase = s.timebase
    ∧ (lockLinesCommand s).timebase = s.timebase := by
  unfold loadPatternCommand clearPatternCommand clearTripCommand lockLinesCommand
  refine ⟨?_, ?_, ?_, ?_⟩
  · split
    · rfl
    · split
      · rfl
      · split
        · rfl
        · split <;> rfl
  · split <;> rfl
  · split
    · rfl
    · split <;> rfl
  · split <;> rfl

/-- What a command does to the Timebase, whichever its code names (R91, R146). -/
theorem commandEffect_moves (code : Byte) (s : State) : CommandMoves s (commandEffect code s) code := by
  obtain ⟨hsuspend, hresume, hdisarm⟩ := groupCommands_timebase s
  obtain ⟨hpattern, hclear, htrip, hlock⟩ := lineCommands_timebase s
  have pick : ∀ {P : Prop} [Decidable P] {f g : State → State}, (P → CommandMoves s (f s) code) →
      CommandMoves s (g s) code → CommandMoves s ((if P then f else g) s) code := by
    intro P _ f g hf hg
    split
    · next h => exact hf h
    · exact hg
  unfold commandEffect
  exact pick (fun _ => .same (slotCommand_timebase loadAt_timebase)) <|
    pick (fun _ => .same (slotCommand_timebase armAt_timebase)) <|
    pick (fun _ => .same (slotCommand_timebase disarmAt_timebase)) <|
    pick (fun _ => .same (slotCommand_timebase releaseAt_timebase)) <|
    pick (fun _ => .same (slotCommand_timebase retimeAt_timebase)) <|
    pick (fun _ => .same (slotCommand_timebase fun _ _ => rfl)) <|
    pick (fun _ => .same hsuspend) <| pick (fun _ => .same hresume) <| pick (fun _ => .same hdisarm) <|
    pick (fun h => h ▸ startCommand_moves s) <| pick (fun h => h ▸ stopCommand_moves s) <|
    pick (fun h => h ▸ settimeCommand_moves s) <| pick (fun h => h ▸ switchClockCommand_moves s) <|
    pick (fun _ => .same hpattern) <| pick (fun _ => .same hclear) <| pick (fun _ => .same htrip) <|
    pick (fun _ => .same hlock) <| pick (fun _ => .same rfl) <| pick (fun _ => .same rfl) <|
    pick (fun h => h ▸ softResetCommand_moves s) (.same rfl)

end Owners

end Sys2Proof.Machine
end

section
/-! What moves the Timebase (05, section 5.1), continued: row by row. -/

namespace Sys2Proof.Machine

section Rows
variable {s t : State} {c : Instr} {code : Byte}

/-- What the row `c` may do to the Timebase, field by field (R91). -/
structure TimebaseMoves (s t : State) (c : Instr) : Prop where
  time       : t.timebase.t ≠ s.timebase.t →
    c = .tick ∨ c = .syncEdge ∨ c = .resortComplete ∨ GivesCommand s c 0x22 ∨ GivesCommand s c 0x3F
      ∨ (c = .commandCompletion ∧ ∃ stage, s.cmd.inHand = some (.softReset stage))
  epoch      : t.timebase.e ≠ s.timebase.e →
    c = .tick ∨ c = .resortComplete ∨ GivesCommand s c 0x22 ∨ GivesCommand s c 0x3F
      ∨ (c = .commandCompletion ∧ ∃ stage, s.cmd.inHand = some (.softReset stage))
  prescaler  : t.timebase.prescaler ≠ s.timebase.prescaler → GivesCommand s c 0x20
  running    : t.timebase.running ≠ s.timebase.running →
    GivesCommand s c 0x20 ∨ GivesCommand s c 0x21 ∨ GivesCommand s c 0x3F
  marker     : t.timebase.marker ≠ s.timebase.marker → WritesAt s 0x63 ∧ ∃ v, c = .registerWrite v
  syncEnable : t.timebase.syncEnable ≠ s.timebase.syncEnable →
    WritesAt s 0x64 ∧ ∃ v, c = .registerWrite v ∨ c = .irqEnableWrite v
  syncVal    : t.timebase.syncVal ≠ s.timebase.syncVal → WritesAt s 0x62 ∧ ∃ v, c = .registerWrite v
  phase      : t.timebase.phase ≠ s.timebase.phase →
    t.timebase.phase = (if t.timebase.running then some 0 else none)
      ∧ (c = .tick ∨ c = .syncEdge ∨ GivesCommand s c 0x20 ∨ GivesCommand s c 0x21 ∨ GivesCommand s c 0x3F
        ∨ (t.clock.source = .ext ∧ c = .refclkEdge)
        ∨ (t.clock.source = .int ∧ (c = .gapTooLong ∨ GivesCommand s c 0x28)))

/-- A row that leaves the Timebase alone. -/
theorem TimebaseMoves.same (h : t.timebase = s.timebase) : TimebaseMoves s t c := by
  constructor <;> rw [h]
  all_goals exact fun hne => absurd rfl hne

/-- The taking of a command by a row that gives it (R141). -/
theorem command_moves (ht : TakesCommand s)
    (hc : c.code = some code ∨ c = .unknownCommand code ∨ c = .collide code ∨ c = .registerWrite code) :
    TimebaseMoves s (commandEffect code (s.taken code)).advance c := by
  have hm := commandEffect_moves code (s.taken code)
  have give : ∀ {n}, code = n → GivesCommand s c n := fun h => h ▸ ⟨ht, hc⟩
  refine ⟨fun h => ?_, fun h => ?_, fun h => give (hm.prescaler h), fun h => ?_, fun h => absurd hm.marker h,
    fun h => absurd hm.syncEnable h, fun h => absurd hm.syncVal h, fun h => ?_⟩
  · rcases hm.time h with h | h
    · exact .inr (.inr (.inr (.inl (give h))))
    · exact .inr (.inr (.inr (.inr (.inl (give h)))))
  · rcases hm.epoch h with h | h
    · exact .inr (.inr (.inl (give h)))
    · exact .inr (.inr (.inr (.inl (give h))))
  · rcases hm.running h with h | h | h
    · exact .inl (give h)
    · exact .inr (.inl (give h))
    · exact .inr (.inr (give h))
  · obtain ⟨hp, h⟩ := hm.phase h
    refine ⟨hp, .inr (.inr ?_)⟩
    rcases h with h | h | h | ⟨hs, h⟩
    · exact .inl (give h)
    · exact .inr (.inl (give h))
    · exact .inr (.inr (.inl (give h)))
    · exact .inr (.inr (.inr (.inr ⟨hs, .inr (give h)⟩)))

/-- A write of CMD, in each state of the port and the unit (R141, R143). -/
theorem writeCmdByte_moves
    (hc : c.code = some code ∨ c = .unknownCommand code ∨ c = .collide code ∨ c = .registerWrite code) :
    TimebaseMoves s (s.writeCmdByte code (commandEffect code)) c := by
  by_cases hw : WritesAt s cmdAddr
  · cases hh : s.cmd.inHand with
    | none => rw [writeCmdByte_taken ⟨hw, hh⟩]; exact command_moves ⟨hw, hh⟩ hc
    | some w => rw [writeCmdByte_busy hw hh]; exact .same rfl
  · rw [writeCmdByte_elsewhere hw]; exact .same rfl

theorem execCollide_moves (h : execCollide code s = .next t) : TimebaseMoves s t (.collide code) := by
  cases h
  split
  · exact .same (writeAt_timebase (by rfl) _)
  · exact writeCmdByte_moves (.inr (.inr (.inl rfl)))

/-- The address that the pointer stands at. -/
theorem writesAt_of_toNat {a : Nat} {x : Addr} (hf : s.port.frame = .write) (hp : s.port.pointer.toNat = a)
    (hx : x.toNat = a) : WritesAt s x := ⟨hf, BitVec.eq_of_toNat_eq (hp.trans hx.symm)⟩

/-- A byte of SYNCVAL commits with the highest (R155). -/
theorem writeSyncVal_moves {k : Nat} {v : Byte} (h : k = 3 → WritesAt s 0x62) :
    TimebaseMoves s (s.writeSyncVal k v).advance (.registerWrite v) := by
  unfold State.writeSyncVal
  dsimp only
  split
  · next hk =>
    exact ⟨fun h => absurd rfl h, fun h => absurd rfl h, fun h => absurd rfl h, fun h => absurd rfl h,
      fun h => absurd rfl h, fun h => absurd rfl h, fun _ => ⟨h hk, v, rfl⟩, fun h => absurd rfl h⟩
  · exact .same rfl

theorem writeCtrl_moves {v : Byte} (hw : WritesAt s 0x64) (hc : c = .registerWrite v ∨ c = .irqEnableWrite v) :
    TimebaseMoves s (s.writeCtrl v).advance c :=
  ⟨fun h => absurd rfl h, fun h => absurd rfl h, fun h => absurd rfl h, fun h => absurd rfl h,
    fun h => absurd rfl h, fun _ => ⟨hw, v, hc⟩, fun h => absurd rfl h, fun h => absurd rfl h⟩

/-- A byte written at the pointer (R160). -/
theorem writeByte_moves {a : Nat} (hf : s.port.frame = .write) (hp : s.port.pointer.toNat = a) (v : Byte) :
    TimebaseMoves s (s.writeByte a v).advance (.registerWrite v) := by
  have pick : ∀ {P : Prop} [Decidable P] {t u : State}, (P → TimebaseMoves s t.advance (.registerWrite v)) →
      TimebaseMoves s u.advance (.registerWrite v) → TimebaseMoves s (if P then t else u).advance (.registerWrite v) := by
    intro P _ t u ht hu
    split
    · next h => exact ht h
    · exact hu
  unfold State.writeByte
  refine pick (fun _ => .same rfl) <| pick (fun _ => .same rfl) <| pick (fun _ => .same (writeArg_timebase _ _)) <|
    pick (fun ha => ?_) <| pick (fun _ => .same rfl) <| pick (fun _ => .same rfl) <|
    pick (fun _ => .same (writeLineConfigTop_timebase v)) <| pick (fun _ => .same rfl) <|
    pick (fun _ => .same (writeCapConfigTop_timebase v)) <| pick (fun ha => writeSyncVal_moves fun hk => ?_) <|
    pick (fun ha => ?_) <| pick (fun ha => writeCtrl_moves (writesAt_of_toNat hf (hp.trans ha) rfl) (.inl rfl)) <|
    pick (fun _ => .same (writePostMask_timebase _ _)) <| pick (fun _ => .same rfl) <| .same rfl
  · have hw : WritesAt s cmdAddr := writesAt_of_toNat hf (hp.trans ha) rfl
    have := writeCmdByte_moves (s := s) (c := .registerWrite v) (code := v) (.inr (.inr (.inr rfl)))
    rwa [State.writeCmdByte, writeAt_eq hw] at this
  · exact writesAt_of_toNat (a := 0x62) hf (by omega) rfl
  · exact ⟨fun h => absurd rfl h, fun h => absurd rfl h, fun h => absurd rfl h, fun h => absurd rfl h,
      fun _ => ⟨writesAt_of_toNat hf (hp.trans ha) rfl, v, rfl⟩, fun h => absurd rfl h, fun h => absurd rfl h,
      fun h => absurd rfl h⟩

theorem execCommandCompletion_moves (h : execCommandCompletion s = .next t) : TimebaseMoves s t .commandCompletion := by
  cases h
  split
  · exact .same (post_timebase _ _)
  · exact .same rfl
  · next stage hw hne =>
    obtain ⟨time, e, h⟩ := runReset_timebase (s.further + 1) s
    have ht : (State.runReset (s.further + 1) s).pauseTaken.timebase = { s.timebase with t := time, e := e } := h
    constructor <;> rw [ht]
    · exact fun _ => .inr (.inr (.inr (.inr (.inr ⟨rfl, stage, hne⟩))))
    · exact fun _ => .inr (.inr (.inr (.inr ⟨rfl, stage, hne⟩)))
    all_goals exact fun h => absurd rfl h
  · exact .same rfl

theorem execResortComplete_moves (h : execResortComplete s = .next t) : TimebaseMoves s t .resortComplete := by
  cases h
  split
  · exact ⟨fun _ => .inr (.inr (.inl rfl)), fun _ => .inr (.inl rfl), fun h => absurd rfl h, fun h => absurd rfl h,
      fun h => absurd rfl h, fun h => absurd rfl h, fun h => absurd rfl h, fun h => absurd rfl h⟩
  · exact .same rfl

theorem execTick_moves (h : execTick s = .next t) : TimebaseMoves s t .tick := by
  cases h
  split
  · next hr =>
    have ht : s.takeTick.timebase = { s.timebase with
        t := s.now + 1, e := if s.now + 1 = 0 then s.timebase.e + 1 else s.timebase.e, phase := some 0 } :=
      postIf_timebase _ _
    constructor <;> rw [ht]
    · exact fun _ => .inl rfl
    · exact fun _ => .inl rfl
    · exact fun h => absurd rfl h
    · exact fun h => absurd rfl h
    · exact fun h => absurd rfl h
    · exact fun h => absurd rfl h
    · exact fun h => absurd rfl h
    · exact fun _ => ⟨(if_pos hr).symm, .inl rfl⟩
  · exact .same rfl

theorem execSyncEdge_moves (h : execSyncEdge s = .next t) : TimebaseMoves s t .syncEdge := by
  cases h
  split
  · next hr =>
    rw [Bool.and_eq_true] at hr
    have ht : s.takeSync.timebase = { s.timebase with t := s.timebase.syncVal, phase := some 0 } := post_timebase _ _
    constructor <;> rw [ht]
    · exact fun _ => .inr (.inl rfl)
    · exact fun h => absurd rfl h
    · exact fun h => absurd rfl h
    · exact fun h => absurd rfl h
    · exact fun h => absurd rfl h
    · exact fun h => absurd rfl h
    · exact fun h => absurd rfl h
    · exact fun _ => ⟨(if_pos hr.1).symm, .inr (.inl rfl)⟩
  · exact .same rfl

/-- A handover between clock sources restarts the phase and nothing else (R111). -/
theorem TimebaseMoves.handover
    (h : t.timebase = { s.timebase with phase := if s.timebase.running then some 0 else none })
    (hc : (t.clock.source = .ext ∧ c = .refclkEdge) ∨ (t.clock.source = .int ∧ c = .gapTooLong)) :
    TimebaseMoves s t c := by
  constructor <;> rw [h]
  · exact fun h => absurd rfl h
  · exact fun h => absurd rfl h
  · exact fun h => absurd rfl h
  · exact fun h => absurd rfl h
  · exact fun h => absurd rfl h
  · exact fun h => absurd rfl h
  · exact fun h => absurd rfl h
  · refine fun _ => ⟨rfl, .inr (.inr (.inr (.inr (.inr ?_))))⟩
    rcases hc with hc | ⟨hs, hc⟩
    · exact .inl hc
    · exact .inr ⟨hs, .inl hc⟩

theorem execRefclkEdge_moves (h : execRefclkEdge s = .next t) : TimebaseMoves s t .refclkEdge := by
  cases h
  split
  · exact .same rfl
  · split
    · exact .same rfl
    · refine .handover (post_timebase _ _) (.inl ⟨?_, rfl⟩)
      rw [State.confirmSwitch, post_eq]
      rfl
  · exact .same rfl

theorem execGapTooLong_moves (h : execGapTooLong s = .next t) : TimebaseMoves s t .gapTooLong := by
  cases h
  split
  · exact .same rfl
  · exact .same rfl
  · refine .handover (post_timebase _ _) (.inr ⟨?_, rfl⟩)
    rw [State.loseReference, post_eq]
    rfl

theorem execFire_timebase (h : execFire s = .next t) : t.timebase = s.timebase := by
  cases h
  split
  · next c stage _ =>
    refine (runFire_timebase _ _).trans ?_
    obtain ⟨_, _, _, _, _, h⟩ := fireStage_frame s c stage
    rw [h]
  · split
    · rfl
    · split
      · exact runFire_timebase _ _
      · rfl

/-- Rows whose next state leaves the Timebase in both cases. -/
theorem ite_timebase {P : Prop} [Decidable P] {u v : State} (hu : u.timebase = s.timebase) (hv : v.timebase = s.timebase) :
    (if P then u else v).timebase = s.timebase := by
  split
  · exact hu
  · exact hv

theorem execGuardTick_timebase (h : execGuardTick s = .next t) : t.timebase = s.timebase := by
  cases h
  have hticked : (if s.lineUnit.trips.isEmpty then s.takeGuardTick else s).timebase = s.timebase := ite_timebase rfl rfl
  exact ite_timebase hticked ((postTrips_timebase _).trans hticked)

theorem execAcceptance_timebase {k : ChannelId} (h : execAcceptance k s = .next t) : t.timebase = s.timebase := by
  cases h
  refine ite_timebase (takeArm_timebase s k) ?_
  split
  · rfl
  · exact ite_timebase (acceptEdge_timebase _ _ _) rfl

/-- What each row but full reset does to the Timebase (R91). -/
theorem exec_moves (hc : c ≠ .fullReset) (h : exec c s = .next t) : TimebaseMoves s t c := by
  cases hcode : c.code with
  | some code =>
    rw [exec_of_code hcode] at h
    cases h
    exact writeCmdByte_moves (.inl hcode)
  | none =>
    cases c with
    | unknownCommand code => cases h; exact writeCmdByte_moves (.inr (.inl rfl))
    | collide code => exact execCollide_moves h
    | commandCompletion => exact execCommandCompletion_moves h
    | fire => exact .same (execFire_timebase h)
    | suspendGroupVisit =>
      cases h
      split
      · exact .same ((suspendVisit_timebase _ _).trans (claim_timebase _))
      · exact .same rfl
    | resumeGroupVisit =>
      cases h
      split
      · exact .same ((resumeVisit_timebase _ _).trans (claim_timebase _))
      · exact .same rfl
    | disarmGroupVisit =>
      cases h
      split
      · exact .same ((disarmVisit_timebase _ _).trans (claim_timebase _))
      · exact .same rfl
    | safeSlotVisit =>
      cases h
      split
      · exact .same ((disarmSlot_timebase _).trans (claim_timebase _))
      · exact .same rfl
    | safeLineVisit => cases h; split <;> exact .same rfl
    | resortComplete => exact execResortComplete_moves h
    | releaseOfAPulse l =>
      cases h
      split
      · exact .same (ite_timebase rfl rfl)
      · exact .same rfl
    | guardTick => exact .same (execGuardTick_timebase h)
    | holdnAssertion => cases h; exact .same (ite_timebase rfl rfl)
    | holdnRelease => cases h; exact .same (ite_timebase rfl rfl)
    | lineConfigurationCommit v => cases h; exact .same (writeAt_timebase (writeLineConfigTop_timebase v) _)
    | tick => exact execTick_moves h
    | syncEdge => exact execSyncEdge_moves h
    | refclkEdge => exact execRefclkEdge_moves h
    | gapTooLong => exact execGapTooLong_moves h
    | switchTimeout => cases h; exact .same (ite_timebase (post_timebase _ _) rfl)
    | captureInputChange k => cases h; exact .same (followInput_timebase _ _)
    | acceptance k => exact .same (execAcceptance_timebase h)
    | channelConfigurationCommit v => cases h; exact .same (writeAt_timebase (writeCapConfigTop_timebase v) _)
    | capturePop => cases h; exact .same (readAt_timebase _)
    | notificationPop => cases h; exact .same (readAt_timebase _)
    | statusRead => cases h; exact .same (readAt_timebase _)
    | latchRead => cases h; exact .same (ite_timebase readByte_timebase rfl)
    | irqEnableWrite v =>
      cases h
      by_cases hw : WritesAt s 0x64
      · rw [writeAt_eq hw]; exact writeCtrl_moves hw (.inr rfl)
      · rw [writeAt_elsewhere hw]; exact .same rfl
    | registerWrite v =>
      cases h
      split
      · next hf => exact writeByte_moves hf rfl v
      · exact .same rfl
    | frameStart => cases h; exact .same (ite_timebase rfl (ite_timebase rfl rfl))
    | addressByte v => cases h; split <;> exact .same rfl
    | frameEnd => cases h; exact .same rfl
    | fullReset => exact absurd rfl hc
    | endOfFullReset => cases h; exact .same (ite_timebase rfl rfl)
    | _ => cases hcode

/-- Settles O59: the row taken, row by row, moves each field of the Timebase only as R91 says. -/
theorem timebaseChangesOnlyAsStated : Obligations.TimebaseChangesOnlyAsStated := by
  intro s t c rest hp h hc
  simp only [step, hp] at h
  have hm : TimebaseMoves (s.withPending rest) t c := exec_moves hc h
  exact ⟨hm.time, hm.epoch, hm.prescaler, hm.running, hm.marker, hm.syncEnable, hm.syncVal, hm.phase⟩

end Rows

end Sys2Proof.Machine
end

section
/-! The six slot commands (01): their refusals and what each does where it is taken. -/

namespace Sys2Proof.Machine

section SlotCommands
variable {s u : State} {i : SlotId} {code : Byte} {act : SlotId → State → State}

/-! ### A slot command on any slot (R9, R10) -/

/-- A command that answers at once, having changed nothing (R10). -/
theorem writeCmdByte_answers (ht : TakesCommand s) {owner : State → State} {r : ResultCode}
    (h : owner (s.taken code) = (s.taken code).finish r) : s.writeCmdByte code owner = answered s code r := by
  rw [writeCmdByte_taken ht, h, taken_finish]

/-- A slot number above 63 (R10). -/
theorem slotCommand_range (ht : TakesCommand s) (h : 64 ≤ (argNow s 0).toNat) :
    s.writeCmdByte code (slotCommand act) = answered s code .range :=
  writeCmdByte_answers ht (by rw [slotCommand, taken_arg, slotArg_none h])

/-- A slot command answers as its act does (R10). -/
theorem slotCommand_answers (ht : TakesCommand s) (hi : (argNow s 0).toNat = i.val) (hf : NotFired s i) {r : ResultCode}
    (h : act i (s.taken code) = (s.taken code).finish r) :
    s.writeCmdByte code (slotCommand act) = answered s code r := by
  rw [writeCmdByte_slotCommand ht hi hf, h, taken_finish]

/-- Where a fire ended nothing is claimed. -/
theorem FireEnded.notFired (h : FireEnded s u) (j : SlotId) : NotFired u j := by
  obtain ⟨-, rfl⟩ := (fireEnded_iff s u).1 h
  rw [NotFired, State.firedSlot, endFire_dispatcher]
  nofun

/-- The end of a fire leaves the port, the Command Unit and its arguments. -/
theorem FireEnded.takesCommand (h : FireEnded s u) (ht : TakesCommand s) : TakesCommand u := by
  obtain ⟨-, rfl⟩ := (fireEnded_iff s u).1 h
  obtain ⟨_, _, _, _, _, he⟩ := runFire_frame 5 s
  rw [State.endFire, he]
  exact ht

theorem FireEnded.argNow (h : FireEnded s u) (k : Fin 8) : argNow u k = argNow s k := by
  obtain ⟨-, rfl⟩ := (fireEnded_iff s u).1 h
  rw [Machine.argNow, endFire_cmd]
  rfl

/-- A slot command on the slot being fired finds it as the end of the fire leaves it (R9, R38). -/
theorem slotCommand_waits (ht : TakesCommand s) (hi : (argNow s 0).toNat = i.val) (hf : s.firedSlot = some i)
    (hu : FireEnded s u) : s.writeCmdByte code (slotCommand act) = u.writeCmdByte code (slotCommand act) := by
  have hi' : (argNow u 0).toNat = i.val := by rw [hu.argNow]; exact hi
  rw [writeCmdByte_slotCommand (hu.takesCommand ht) hi' (hu.notFired i), writeCmdByte_taken ht, slotCommand, taken_arg,
    slotArg_eq hi]
  dsimp only
  rw [claim_fired (s := s.taken code) hf, endFire_taken, ((fireEnded_iff s u).1 hu).2]

/-! ### Each command by the state of its slot (R11 to R24) -/

theorem loadAt_state (h : (s.slot i).state = .pending ∨ (s.slot i).state = .suspended) : loadAt i s = s.finish .state := by
  rcases h with h | h <;> simp only [loadAt, h]

theorem armAt_state (h : (s.slot i).state ≠ .loaded) : armAt i s = s.finish .state := by
  unfold armAt
  split
  · rfl
  · rfl
  · rfl
  · next hl => exact absurd hl h

theorem releaseAt_state (h : (s.slot i).state ≠ .loaded) : releaseAt i s = s.finish .state := by
  unfold releaseAt
  split
  · rfl
  · rfl
  · rfl
  · next hl => exact absurd hl h

theorem disarmAt_state (h : (s.slot i).state = .empty ∨ (s.slot i).state = .loaded) : disarmAt i s = s.finish .state := by
  rcases h with h | h <;> simp only [disarmAt, h]

theorem retimeAt_state (h : (s.slot i).state = .empty) : retimeAt i s = s.finish .state := by
  simp only [retimeAt, h]

/-- Settles O6: the number first, then the state; the fire of the slot is waited for. -/
theorem slotCommandRefusals : Obligations.SlotCommandRefusals := by
  intro s ht
  refine ⟨fun h => ⟨?_, ?_, ?_, ?_, ?_, ?_⟩, fun i hi => ⟨fun hf => ⟨fun h => ?_, fun h => ⟨?_, ?_⟩, fun h => ?_, fun h => ?_⟩,
    fun u hf hu => ⟨?_, ?_, ?_, ?_, ?_, ?_⟩⟩⟩
  all_goals refine congrArg Host.Outcome.next ?_
  · exact slotCommand_range ht h
  · exact slotCommand_range ht h
  · exact slotCommand_range ht h
  · exact slotCommand_range ht h
  · exact slotCommand_range ht h
  · exact slotCommand_range ht h
  · exact slotCommand_answers ht hi hf (loadAt_state h)
  · exact slotCommand_answers ht hi hf (armAt_state h)
  · exact slotCommand_answers ht hi hf (releaseAt_state h)
  · exact slotCommand_answers ht hi hf (disarmAt_state h)
  · exact slotCommand_answers ht hi hf (retimeAt_state h)
  · exact slotCommand_waits ht hi hf hu
  · exact slotCommand_waits ht hi hf hu
  · exact slotCommand_waits ht hi hf hu
  · exact slotCommand_waits ht hi hf hu
  · exact slotCommand_waits ht hi hf hu
  · exact slotCommand_waits ht hi hf hu

/-! ### ARM (R14 to R16) -/

/-- The PAST check (R15). -/
theorem tooLate_iff {d : Descriptor} {due now : Tick} :
    tooLate d due now = true ↔ d.late = .drop ∧ signedDistance due now < -(d.tolerance.toNat : Int) := by
  simp [tooLate]

/-- ABS 0, REL 1 (R146). -/
theorem armModeArg_other {b : Byte} (h0 : b ≠ 0) (h1 : b ≠ 1) : armModeArg b = none := by
  rw [armModeArg, if_neg h0, if_neg h1]

/-- A REL time field of 2^31 or more has no due time (R14). -/
theorem armDue_rel {time now : Tick} :
    armDue .rel time now = if 2 ^ 31 ≤ time.toNat then none else some (now + time) := by
  simp [armDue, BitVec.msb_eq_decide]

/-- ARM of a LOADED slot whose mode and time give a due time (R14 to R16). -/
theorem armAt_due {mode : ArmMode} {due : Tick} (hs : (s.slot i).state = .loaded) (hm : armModeArg (s.arg 1) = some mode)
    (hd : armDue mode (s.slot i).desc.time s.now = some due) :
    armAt i s = if tooLate (s.slot i).desc due s.now then s.finish .past else (s.armSlot i due s.now).finish .ok := by
  simp only [armAt, hs, hm, hd]

/-- Settles O7: a mode and a due time, in time, and the slot armed afresh. -/
theorem armTakes : Obligations.ArmTakes := by
  intro s i due ht hm hi hf hs hdue hlate
  have htaken : ((s.taken 0x02).slot i).state = .loaded := hs
  have hat : armAt i (s.taken 0x02) = ((s.taken 0x02).armSlot i due s.now).finish .ok := by
    have hnot : ¬ tooLate ((s.taken 0x02).slot i).desc due (s.taken 0x02).now = true := by
      rw [tooLate_iff]
      rintro ⟨hd, hlt⟩
      have := hlate hd
      change signedDistance due s.now < -((s.slot i).desc.tolerance.toNat : Int) at hlt
      omega
    rcases hdue with ⟨ha, hd⟩ | ⟨ha, hlt, hd⟩
    · rw [armAt_due (mode := .abs) htaken (by rw [taken_arg, ha]; rfl) (congrArg some hd.symm), if_neg hnot]
      rfl
    · rw [armAt_due (mode := .rel) (due := due) htaken (by rw [taken_arg, ha]; rfl), if_neg hnot]
      · rfl
      · rw [armDue_rel, if_neg (by exact Nat.not_le.2 hlt), hd]
        rfl
  refine congrArg Host.Outcome.next ?_
  rw [armCommand, writeCmdByte_slotCommand ht hi hf, hat, armSlot_eq (s := s.taken 0x02) (not_listed hm (by rw [hs]; nofun))]
  rfl

/-- Settles O8: a mode that is none, a REL time field without a due time, and a due time too late. -/
theorem armRefuses : Obligations.ArmRefuses := by
  intro s i ht hi hf hs
  have htaken : ((s.taken 0x02).slot i).state = .loaded := hs
  refine ⟨fun h0 h1 => ?_, fun h1 hbig => ?_, fun h0 hd hlt => ?_⟩
  all_goals refine congrArg Host.Outcome.next (slotCommand_answers ht hi hf ?_)
  · simp only [armAt, htaken, taken_arg, armModeArg_other h0 h1]
  · have hdue : armDue .rel ((s.taken 0x02).slot i).desc.time (s.taken 0x02).now = none := by
      rw [armDue_rel]
      exact if_pos hbig
    have hmode : armModeArg ((s.taken 0x02).arg 1) = some .rel := by rw [taken_arg, h1]; rfl
    simp only [armAt, htaken, hmode, hdue]
  · rw [armAt_due (mode := .abs) htaken (by rw [taken_arg, h0]; rfl) rfl]
    exact if_pos (tooLate_iff.2 ⟨hd, hlt⟩)

/-! ### DISARM, RELEASE, QUERY, RETIME (R18 to R24) -/

/-- Settles O9: each command on a slot in the state it takes. -/
theorem disarmReleaseQueryTake : Obligations.DisarmReleaseQueryTake := by
  intro s i ht hi hf
  refine ⟨fun hs => ?_, fun hs => ?_, fun hs => ?_, ?_⟩
  all_goals refine congrArg Host.Outcome.next ?_
  · have hat : disarmAt i (s.taken 0x03) = ((s.taken 0x03).disarmSlot i).finish .ok := by
      simp only [disarmAt, State.taken_slot, hs]
    rw [disarmCommand, writeCmdByte_slotCommand ht hi hf, hat, disarmSlot_pending (s := s.taken 0x03) hs]
    rfl
  · have hat : disarmAt i (s.taken 0x03) = ((s.taken 0x03).disarmSlot i).finish .ok := by
      simp only [disarmAt, State.taken_slot, hs]
    rw [disarmCommand, writeCmdByte_slotCommand ht hi hf, hat, disarmSlot_suspended (s := s.taken 0x03) hs]
    rfl
  · have hat : releaseAt i (s.taken 0x04) = ((s.taken 0x04).setSlot i Slot.cleared).finish .ok := by
      simp only [releaseAt, State.taken_slot, hs]
    rw [releaseCommand, writeCmdByte_slotCommand ht hi hf, hat]
    rfl
  · rw [queryCommand, writeCmdByte_slotCommand ht hi hf]
    rfl

/-- A remaining time moved within its bounds, and out of them (R22). -/
theorem movedRemaining_eq {remaining delta : BitVec 32} {moved : Int} (h : moved = (remaining.toNat : Int) + delta.toInt) :
    movedRemaining remaining delta = if 0 ≤ moved ∧ moved < 2147483648 then some (BitVec.ofInt 32 moved) else none := by
  rw [h]
  rfl

/-- Settles O10: the time field, the entry and its due time, or the remaining time moves. -/
theorem retimeMoves : Obligations.RetimeMoves := by
  intro s i ht hi hf
  have hexec : exec .retime s = .next (retimeAt i (s.taken 0x05)).advance :=
    congrArg Host.Outcome.next (writeCmdByte_slotCommand ht hi hf 0x05 retimeAt)
  refine ⟨fun hs => ?_, fun hs => ?_, fun hs moved hmoved => ?_⟩
  · have hat : retimeAt i (s.taken 0x05) = ((s.taken 0x05).setSlot i { s.slot i with
        desc := { (s.slot i).desc with time := (s.slot i).desc.time + argWordNow s } }).finish .ok := by
      simp only [retimeAt, State.taken_slot, hs, taken_argWord1]
    rw [hexec, hat]
    rfl
  · have hat : retimeAt i (s.taken 0x05) = ((((s.taken 0x05).removeSlot i).setSlot i { s.slot i with
        due := (s.slot i).due + argWordNow s }).insertSlot i).finish .ok := by
      simp only [retimeAt, State.taken_slot, hs, taken_argWord1]
    rw [hexec, hat, reinsertSlot_eq]
    rfl
  · have hm := movedRemaining_eq hmoved
    constructor
    · intro h0 hlt
      have hat : retimeAt i (s.taken 0x05)
          = ((s.taken 0x05).setSlot i { s.slot i with remaining := BitVec.ofInt 32 moved }).finish .ok := by
        rw [if_pos ⟨h0, by omega⟩] at hm
        simp only [retimeAt, State.taken_slot, hs, taken_argWord1, hm]
      rw [hexec, hat]
      rfl
    · intro hout
      have hat : retimeAt i (s.taken 0x05) = (s.taken 0x05).finish .range := by
        rw [if_neg (by omega)] at hm
        simp only [retimeAt, State.taken_slot, hs, taken_argWord1, hm]
      rw [hexec, hat, taken_finish]

end SlotCommands

end Sys2Proof.Machine
end

section
/-! The group commands, their walks and the walk of SAFE (03, section 3.8; 04). -/

namespace Sys2Proof.Machine

section Walks
variable {s u : State} {i : SlotId} {g : GroupId}

/-! ### The taking of the group commands (R80, R81, R83, R85) -/

/-- Settles O12: the number, then the flag, then the walk. -/
theorem groupCommandsBegin : Obligations.GroupCommandsBegin := by
  intro s ht
  refine ⟨fun h => ⟨?_, ?_, ?_⟩, fun g hg => ⟨fun hf => ?_, fun hf => ?_, fun hf => ?_, fun hf => ?_, ?_⟩⟩
  all_goals refine congrArg Host.Outcome.next ?_
  · exact writeCmdByte_answers ht (by rw [suspendGroupCommand, taken_arg, groupArg_none h])
  · exact writeCmdByte_answers ht (by rw [resumeGroupCommand, taken_arg, groupArg_none h])
  · exact writeCmdByte_answers ht (by rw [disarmGroupCommand, taken_arg, groupArg_none h])
  · exact writeCmdByte_answers ht (by rw [suspendGroupCommand, taken_arg, groupArg_eq hg]; exact if_pos hf)
  · refine writeCmdByte_answers ht ?_
    rw [resumeGroupCommand, taken_arg, groupArg_eq hg]
    exact if_neg (Bool.eq_false_iff.1 hf)
  · have howner : suspendGroupCommand (s.taken 0x10)
        = ((s.taken 0x10).setGroup g ⟨true, s.now⟩).work (.suspendWalk g 0) := by
      rw [suspendGroupCommand, taken_arg, groupArg_eq hg]
      exact if_neg (Bool.eq_false_iff.1 hf)
    rw [writeCmdByte_taken ht, howner]
    rfl
  · have howner : resumeGroupCommand (s.taken 0x11)
        = ((s.taken 0x11).setGroup g { s.group g with suspended := false }).work (.resumeWalk g 0) := by
      rw [resumeGroupCommand, taken_arg, groupArg_eq hg]
      exact if_pos hf
    rw [writeCmdByte_taken ht, howner]
    rfl
  · rw [writeCmdByte_taken ht, disarmGroupCommand, taken_arg, groupArg_eq hg]
    rfl

/-! ### Visits that wait for a fire (R9, R38) -/

/-- A visit's claim on the slot being fired: what the visit finds is what the end of the fire leaves (R9, R38). -/
theorem FireEnded.claim (hu : FireEnded s u) (hf : s.firedSlot = some i) : s.claim i = u.claim i := by
  rw [claim_fired hf, claim_not_fired (hu.notFired i), ((fireEnded_iff s u).1 hu).2]

theorem FireEnded.cmd (hu : FireEnded s u) : u.cmd = s.cmd := by
  rw [((fireEnded_iff s u).1 hu).2, endFire_cmd]

/-- The visit of each walk, by what it has in hand. -/
theorem suspendGroupVisit_eq (h : s.cmd.inHand = some (.suspendWalk g i)) : exec .suspendGroupVisit s
    = .next (((s.claim i).suspendVisit g i).work (afterSlot i (.suspendWalk g) (.finished .ok))) := by
  simp only [exec, execSuspendGroupVisit, h]

theorem resumeGroupVisit_eq (h : s.cmd.inHand = some (.resumeWalk g i)) : exec .resumeGroupVisit s
    = .next (((s.claim i).resumeVisit g i).work (afterSlot i (.resumeWalk g) (.finished .ok))) := by
  simp only [exec, execResumeGroupVisit, h]

theorem disarmGroupVisit_eq (h : s.cmd.inHand = some (.disarmWalk g i)) : exec .disarmGroupVisit s
    = .next (((s.claim i).disarmVisit g i).work (afterSlot i (.disarmWalk g) (.finished .ok))) := by
  simp only [exec, execDisarmGroupVisit, h]

theorem safeSlotVisit_eq (h : s.cmd.inHand = some (.safeSlots i)) : exec .safeSlotVisit s
    = .next (((s.claim i).disarmSlot i).work (afterSlot i .safeSlots (.safeLines 0))) := by
  simp only [exec, execSafeSlotVisit, h]

/-! ### SUSPEND_GROUP's visit (R81) -/

/-- The distance of a listed slot is that of its entry (R28, R37). -/
theorem slotDist_listed (h : ∃ e ∈ s.plist, e.slot = i) : ∃ e ∈ s.plist, e.slot = i ∧ s.slotDist i = s.entryDist s.now e := by
  cases hf : s.plist.find? fun e => e.slot == i with
  | none =>
    obtain ⟨e, he, hi⟩ := h
    have := List.find?_eq_none.1 hf e he
    exact absurd (beq_iff_eq.2 hi) this
  | some e =>
    exact ⟨e, List.mem_of_find?_eq_some hf, by simpa using List.find?_some hf, by simp only [State.slotDist, hf]⟩

/-- Settles O13: the member's entry gives the remaining time; the walk goes on; a fire of the slot is waited for. -/
theorem suspendVisit : Obligations.SuspendVisit := by
  intro s g i w hw hnext
  have hafter := afterSlot_eq (visit := .suspendWalk g) (last := .finished .ok) hnext
  have hexec := suspendGroupVisit_eq hw
  rw [hafter] at hexec
  refine ⟨fun hm hf => ?_, fun u hf hu => ?_⟩
  · rw [claim_not_fired hf] at hexec
    rw [hexec]
    refine ⟨fun hg hs => ?_, fun hn => ?_⟩
    · obtain ⟨e, he, hei, hdist⟩ := slotDist_listed (listed_entry hm hf hs)
      refine ⟨e, he, hei, ?_⟩
      rcases suspendVisit_cases s g i with ⟨-, -, hv⟩ | ⟨hn, -⟩
      · rw [hv, hdist]
        rfl
      · rcases hn with hn | hn
        · exact absurd hg hn
        · exact absurd hs hn
    · rcases suspendVisit_cases s g i with ⟨hg, hs, -⟩ | ⟨-, hv⟩
      · rcases hn with hn | hn
        · exact absurd hg hn
        · exact absurd hs hn
      · rw [hv]
        rfl
  · rw [suspendGroupVisit_eq hw, suspendGroupVisit_eq (hu.cmd ▸ hw), hu.claim hf]

/-! ### RESUME_GROUP's visit (R83) -/

/-- Settles O14: the member is due its remaining time after T and stands in its place in the list. -/
theorem resumeVisit : Obligations.ResumeVisit := by
  intro s g i w hw hnext
  have hafter := afterSlot_eq (visit := .resumeWalk g) (last := .finished .ok) hnext
  have hexec := resumeGroupVisit_eq hw
  rw [hafter] at hexec
  refine ⟨fun hm hf => ?_, fun u hf hu => ?_⟩
  · rw [claim_not_fired hf] at hexec
    rw [hexec]
    refine ⟨fun hg hs => ?_, fun hn => ?_⟩
    · rcases resumeVisit_cases s g i with ⟨-, -, hv⟩ | ⟨hn, -⟩
      · rw [hv, setSlot_insertSlot (not_listed hm (by rw [hs]; nofun))]
        rfl
      · rcases hn with hn | hn
        · exact absurd hg hn
        · exact absurd hs hn
    · rcases resumeVisit_cases s g i with ⟨hg, hs, -⟩ | ⟨-, hv⟩
      · rcases hn with hn | hn
        · exact absurd hg hn
        · exact absurd hs hn
      · rw [hv]
        rfl
  · rw [resumeGroupVisit_eq hw, resumeGroupVisit_eq (hu.cmd ▸ hw), hu.claim hf]

/-! ### The visits of DISARM_GROUP and SAFE (R74, R85) -/

/-- Settles O15: the two walks disarm alike, DISARM_GROUP the members of its group alone. -/
theorem disarmVisits : Obligations.DisarmVisits := by
  intro s i
  refine ⟨fun g w hw hf hnext => ?_, fun w hw hf hnext => ?_, fun u hf hu => ⟨fun g hw => ?_, fun hw => ?_⟩⟩
  · have hexec := disarmGroupVisit_eq hw
    rw [afterSlot_eq (visit := .disarmWalk g) (last := .finished .ok) hnext, claim_not_fired hf, State.disarmVisit] at hexec
    rw [hexec]
    refine ⟨fun hg hs => ?_, fun hg hs => ?_, fun hn => ?_⟩
    · rw [if_pos hg, disarmSlot_pending hs]
      rfl
    · rw [if_pos hg, disarmSlot_suspended hs]
      rfl
    · by_cases hg : (s.slot i).desc.group = g
      · rw [if_pos hg, disarmSlot_other (hn.resolve_left fun h => h hg)]
        rfl
      · rw [if_neg hg]
        rfl
  · have hexec := safeSlotVisit_eq hw
    rw [afterSlot_eq (visit := .safeSlots) (last := .safeLines 0) hnext, claim_not_fired hf] at hexec
    rw [hexec]
    refine ⟨fun hs => ?_, fun hs => ?_, fun hn => ?_⟩
    · rw [disarmSlot_pending hs]
      rfl
    · rw [disarmSlot_suspended hs]
      rfl
    · rw [disarmSlot_other hn]
      rfl
  · rw [disarmGroupVisit_eq hw, disarmGroupVisit_eq (hu.cmd ▸ hw), hu.claim hf]
  · rw [safeSlotVisit_eq hw, safeSlotVisit_eq (hu.cmd ▸ hw), hu.claim hf]

end Walks

end Sys2Proof.Machine
end

section
/-! The Timebase (05): START and STOP, SETTIME and the end of its re-sort, counting ticks and SYNC edges. -/

namespace Sys2Proof.Machine

section Time
variable {s u : State}

/-! ### START and STOP (R94, R95, R119) -/

/-- A filter in use is STABLE at the present level after START (R119). -/
theorem Channel.atStart_eq (c : Channel) (level : Bool) :
    c.atStart level = if c.edge = .off then c else { c with filter := .stable level } := by
  unfold Channel.atStart
  split
  · next h => rw [if_pos h]
  all_goals next h => rw [if_neg (by rw [h]; nofun)]

/-- A trigger arm leaves the port, the Command Unit and the run state. -/
theorem takeArm_takesCommand (ht : TakesCommand s) (k : ChannelId) : TakesCommand (s.takeArm k) := by
  obtain ⟨_, _, _, _, _, _, h⟩ := takeArm_frame s k
  rw [h]
  exact ht

/-- STOP of a RUNNING Timebase (R95). -/
theorem stopCommand_running (h : s.timebase.running = true) : stopCommand s = s.stopRunning.finish .ok := if_pos h

/-- The taking of a command and the trigger arms still to come do not meet. -/
theorem takeArms_first_taken {k : ChannelId} (hj : ∀ j : ChannelId, j < k → (s.channel j).arm = none) (code : Byte) :
    (s.taken code).takeArms = ((s.takeArm k).taken code).takeArms := by
  rw [takeArms_first (s := s.taken code) (k := k) hj, takeArm_taken]

/-- Settles O16: the refusals by the run state and the prescaler, and the two effects on the Timebase and the filters. -/
theorem startAndStop : Obligations.StartAndStop := by
  intro s ht
  refine ⟨fun hr => ?_, fun hr hp => ?_, fun hr p hp => ?_, fun hr => ?_, fun hr harms => ?_, fun hr k u hk hj hu => ?_⟩
  · exact congrArg Host.Outcome.next (writeCmdByte_answers ht (if_pos hr))
  · refine congrArg Host.Outcome.next (writeCmdByte_answers ht ?_)
    rw [startCommand, State.taken_timebase, if_neg (Bool.eq_false_iff.1 hr), taken_arg, prescalerArg, numberBelow_none hp]
  · have howner : startCommand (s.taken 0x20) = (((s.taken 0x20).withTimebase
        { s.timebase with prescaler := p, running := true, phase := some 0 }).mapChannels
          fun k c => c.atStart (s.inputLevel k)).finish .ok := by
      rw [startCommand, State.taken_timebase, if_neg (Bool.eq_false_iff.1 hr), taken_arg, prescalerArg, numberBelow_eq hp]
      rfl
    refine ⟨_, congrArg Host.Outcome.next ((writeCmdByte_taken ht _ _).trans (congrArg State.advance howner)), rfl, fun k => ?_⟩
    rw [State.advance_channel, State.finish_channel, State.mapChannels_channel, Channel.atStart_eq]
    rfl
  · exact congrArg Host.Outcome.next (writeCmdByte_answers ht (if_neg (Bool.eq_false_iff.1 hr)))
  · have howner : stopCommand (s.taken 0x21) = (s.taken 0x21).stopTimebase.finish .ok := by
      rw [stopCommand_running (s := s.taken 0x21) hr, State.stopRunning, takeArms_none (s := s.taken 0x21) harms]
    refine ⟨_, congrArg Host.Outcome.next ((writeCmdByte_taken ht _ _).trans (congrArg State.advance howner)), rfl, fun k => ?_⟩
    have hch : ((s.taken 0x21).stopTimebase.finish .ok).advance.channel k
        = { s.channel k with filter := (s.channel k).filter.abandoned (s.inputLevel k) } := by
      rw [State.advance_channel, State.finish_channel, State.stopTimebase, State.mapChannels_channel]
      rfl
    rw [hch]
    constructor
    · intro l hl
      rw [hl, Filter.abandoned, ← hl]
    · intro l a b hl
      rw [hl, Filter.abandoned]
  · rw [acceptance_arm hk] at hu
    cases hu
    refine congrArg Host.Outcome.next ?_
    rw [writeCmdByte_taken ht, writeCmdByte_taken (takeArm_takesCommand ht k), stopCommand_running (s := s.taken 0x21) hr,
      stopCommand_running (s := (s.takeArm k).taken 0x21) ((congrArg Timebase.running (takeArm_timebase s k)).trans hr),
      State.stopRunning, State.stopRunning, takeArms_first_taken hj]

/-! ### SETTIME (R97 to R99) -/

/-- KEEP_DISTANCE 0, KEEP_ABSOLUTE 1 (R146). -/
theorem timeModeArg_other {b : Byte} (h0 : b ≠ 0) (h1 : b ≠ 1) : timeModeArg b = none := by
  rw [timeModeArg, if_neg h0, if_neg h1]

/-- A load of T shifts the times held in a fire's copy (R53). -/
theorem dispatcher_shift_idle {x : Dispatcher} (d : Tick) (h : x = .idle) : x.shift d = .idle := by rw [h]; rfl

theorem dispatcher_shift_firing {x : Dispatcher} {c : FireCopy} {stage : FireStage} (d : Tick) (h : x = .firing c stage) :
    x.shift d = .firing { c with nominal := c.nominal + d, fireTick := c.fireTick + d } stage := by rw [h]; rfl

/-- Settles O17: KEEP_DISTANCE loads T and shifts what is stored, so every entry keeps its distance. -/
theorem settimeKeepsDistance : Obligations.SettimeKeepsDistance := by
  intro s ht
  refine ⟨fun hr => ?_, fun hr h0 h1 => ?_, fun hr h0 => ?_⟩
  · exact congrArg Host.Outcome.next (writeCmdByte_answers ht (if_pos hr))
  · refine congrArg Host.Outcome.next (writeCmdByte_answers ht ?_)
    rw [settimeCommand, State.taken_timebase, if_neg (Bool.eq_false_iff.1 hr), taken_arg, timeModeArg_other h0 h1]
  · have howner : settimeCommand (s.taken 0x22) = (((s.taken 0x22).shiftStored (argTimeNow s - s.now)).loadTime
        (argTimeNow s) (argNow s 5 ++ argNow s 4)).finish .ok := by
      rw [settimeCommand, State.taken_timebase, if_neg (Bool.eq_false_iff.1 hr), taken_arg, h0]
      rfl
    refine ⟨_, congrArg Host.Outcome.next ((writeCmdByte_taken ht _ _).trans (congrArg State.advance howner)), rfl,
      fun hd => dispatcher_shift_idle _ hd, fun c stage hd => dispatcher_shift_firing _ hd, fun i hl => ?_, fun i hl => ?_,
      fun l => ?_, fun e he => ?_⟩
    · exact (shiftStored_slot (s.taken 0x22) _ i).trans (if_pos hl)
    · exact (shiftStored_slot (s.taken 0x22) _ i).trans (if_neg (Bool.eq_false_iff.1 hl))
    · exact shiftStored_line (s.taken 0x22) _ l
    · exact shiftStored_entryDist (s := s.taken 0x22) (argTimeNow s) he

/-- KEEP_ABSOLUTE leaves its re-sort in flight once a fire in progress has ended (R99). -/
theorem settimeCommand_absolute (hr : s.timebase.running = false) (h1 : argNow s 6 = 1) :
    settimeCommand (s.taken 0x22)
      = (s.endFire.taken 0x22).work (.resort (argTimeNow s) (argNow s 5 ++ argNow s 4)) := by
  rw [settimeCommand, State.taken_timebase, if_neg (Bool.eq_false_iff.1 hr), taken_arg, h1, ← endFire_taken]
  rfl

/-- The end of the re-sort (R33, R99). -/
theorem resortComplete_eq {t : Tick} {e : BitVec 16} (h : s.cmd.inHand = some (.resort t e)) :
    exec .resortComplete s = .next (((s.withPlist (s.resorted t)).loadTime t e).finish .ok) := by
  simp only [exec, execResortComplete, h]

/-- Settles O18: the re-sort changes the order alone, and keeps the order of equal due times. -/
theorem settimeResorts : Obligations.SettimeResorts := by
  refine ⟨fun s ht hr h1 => ⟨fun hd => ?_, fun u hu => ?_⟩, fun s time epoch hw => ?_⟩
  · refine congrArg Host.Outcome.next ?_
    rw [writeCmdByte_taken ht, settimeCommand_absolute hr h1, State.endFire, runFire_idle hd]
    rfl
  · have hend := ((fireEnded_iff s u).1 hu).2
    have hidle : u.endFire = u := by rw [State.endFire, runFire_idle (by rw [hend, endFire_dispatcher])]
    have hr' : u.timebase.running = false := by rw [hend, endFire_timebase]; exact hr
    have htime : argTimeNow u = argTimeNow s := by
      unfold argTimeNow
      simp only [hu.argNow]
    refine congrArg Host.Outcome.next ?_
    rw [writeCmdByte_taken ht, settimeCommand_absolute hr h1, writeCmdByte_taken (hu.takesCommand ht),
      settimeCommand_absolute hr' (by rw [hu.argNow]; exact h1), hidle, htime, hu.argNow, hu.argNow, hend]
  · have hnext : ∀ due : Tick, ((s.resorted time).filter fun e => (s.slot e.slot).due == due).map Entry.slot
        = (s.plist.filter fun e => (s.slot e.slot).due == due).map Entry.slot := fun due => by
      by_cases h : time = s.now
      · rw [h, resorted_now]
      · rw [resorted_of_ne h]
        refine resortInto_stable (key := s.dueDist time) (fun _ => rfl) (fun _ => rfl) (fun e e' he he' => ?_) s.plist
          List.Pairwise.nil
        rw [State.dueDist, State.dueDist, beq_iff_eq.1 he, beq_iff_eq.1 he']
    refine ⟨_, resortComplete_eq hw, rfl, fun h => ?_, fun h => ⟨?_, ?_⟩, resorted_slots_perm s time, hnext⟩
    · show s.resorted time = s.plist
      rw [h, resorted_now]
    · show ∀ e ∈ s.resorted time, _
      rw [resorted_of_ne h]
      exact resortInto_fresh _ _ _ nofun
    · show (s.resorted time).Pairwise _
      rw [resorted_of_ne h]
      exact resortInto_ordered (key := s.dueDist time) (fun _ => rfl) s.plist List.Pairwise.nil

/-! ### Counting ticks (R93, R103) -/

/-- T wraps from its last value (R93). -/
theorem next_eq_zero_iff (t : Tick) : t + 1 = 0 ↔ t.toNat = 2 ^ 32 - 1 := by
  rw [← BitVec.toNat_inj, BitVec.toNat_add]
  have := t.isLt
  change (t.toNat + 1) % 2 ^ 32 = 0 ↔ _
  omega

/-- The selected bit rises (R103). -/
theorem markRises_iff {marker : Option (Fin 32)} {old new : Tick} : markRises marker old new = true
    ↔ ∃ b, marker = some b ∧ old.getLsbD b.val = false ∧ new.getLsbD b.val = true := by
  cases marker with
  | none => simp [markRises]
  | some b => simp [markRises]

/-- Settles O19: T, E at the wrap, MARK where the bit rises, and the mark of an entry at the half range. -/
theorem tickCounts : Obligations.TickCounts := by
  intro s
  refine ⟨fun hr => congrArg Host.Outcome.next (if_neg (Bool.eq_false_iff.1 hr)), fun hr => ?_⟩
  refine congrArg Host.Outcome.next ((if_pos hr).trans ?_)
  have he : (if s.now + 1 = 0 then s.timebase.e + 1 else s.timebase.e)
      = if s.now.toNat = 2 ^ 32 - 1 then s.timebase.e + 1 else s.timebase.e := by simp only [next_eq_zero_iff]
  rw [State.takeTick, he]
  by_cases hm : markRises s.timebase.marker s.now (s.now + 1) = true
  · rw [if_pos hm, if_pos (markRises_iff.1 hm)]
    exact post_eq _ _ _
  · rw [if_neg hm, if_neg fun h => hm (markRises_iff.2 h)]
    rfl

/-! ### SYNC edges (R100, R101, R120) -/

/-- Settles O20: the load shifts what SETTIME shifts, and the filters and trigger arms with it. -/
theorem syncEdgeLoads : Obligations.SyncEdgeLoads := by
  intro s
  refine ⟨fun h => ?_, fun hr hs => ?_⟩
  · refine congrArg Host.Outcome.next (if_neg ?_)
    rw [Bool.and_eq_true]
    rintro ⟨hr, hs⟩
    rcases h with h | h
    · rw [hr] at h; cases h
    · rw [hs] at h; cases h
  · have hon : (s.timebase.running && s.timebase.syncEnable) = true := by rw [hr, hs]; rfl
    have hexec : exec .syncEdge s = .next s.takeSync := congrArg Host.Outcome.next (if_pos hon)
    have htake : s.takeSync = _ := post_eq _ _ _
    refine ⟨_, _, rfl, hexec.trans (congrArg Host.Outcome.next htake), rfl, fun hd => dispatcher_shift_idle _ hd,
      fun c stage hd => dispatcher_shift_firing _ hd, fun i hl => ?_, fun i hl => ?_, fun l => shiftStored_line s _ l,
      fun k arm harm => ?_, fun e he => shiftStored_entryDist s.timebase.syncVal he⟩
    · exact (shiftStored_slot s _ i).trans (if_pos hl)
    · exact (shiftStored_slot s _ i).trans (if_neg (Bool.eq_false_iff.1 hl))
    · have hch := shiftFilters_channel (s.shiftStored (s.timebase.syncVal - s.now)) (s.timebase.syncVal - s.now) k
      refine ⟨fun l hl => hch.trans ?_, fun l a b hl => hch.trans ?_⟩
      all_goals
        have hsame : (s.shiftStored (s.timebase.syncVal - s.now)).channel k = s.channel k := rfl
        rw [hsame, hl, harm]
      · rw [Filter.shift, ← hl]
        rfl
      · rfl

end Time

end Sys2Proof.Machine
end

section
/-! The Clock Unit (06): SWITCH_CLOCK in every condition, and the REFCLK monitor. -/

namespace Sys2Proof.Machine

section ClockUnit
variable {s : State}

/-! ### SWITCH_CLOCK (R109 to R111) -/

/-- INT 0, EXT 1 (R146). -/
theorem sourceArg_other {b : Byte} (h0 : b ≠ 0) (h1 : b ≠ 1) : sourceArg b = none := by
  rw [sourceArg, if_neg h0, if_neg h1]

theorem sourceArg_of_zero {b : Byte} (h : b = 0) : sourceArg b = some .int := by rw [h]; rfl

theorem sourceArg_of_one {b : Byte} (h : b = 1) : sourceArg b = some .ext := by rw [h]; rfl

/-- A switch is pending in the one state that says so (R107). -/
theorem isPending_of_ne {x : SwitchState} (h : x ≠ .none) : x.isPending = true := by
  cases x with
  | none => exact absurd rfl h
  | pendingExt n => rfl

/-- A command while a switch is pending, and a switch to the present source (R109). -/
theorem switchClockCommand_pending {src : ClockSource} (ha : sourceArg (s.arg 0) = some src)
    (h : s.clock.switching ≠ .none) : switchClockCommand s = s.finish .state := by
  simp only [switchClockCommand, ha, if_pos (isPending_of_ne h)]

theorem switchClockCommand_present {src : ClockSource} (ha : sourceArg (s.arg 0) = some src)
    (h : s.clock.switching = .none) (hs : src = s.clock.source) : switchClockCommand s = s.finish .state := by
  simp only [switchClockCommand, ha, h, SwitchState.isPending, Bool.false_eq_true, if_false, if_pos hs]

/-- A switch away from REFCLK is made at once (R109, R111). -/
theorem switchClockCommand_int (ha : sourceArg (s.arg 0) = some .int) (h : s.clock.switching = .none)
    (hs : s.clock.source = .ext) : switchClockCommand s = s.switchToInt.finish .ok := by
  simp only [switchClockCommand, ha, h, SwitchState.isPending, Bool.false_eq_true, if_false, hs, reduceCtorEq]

/-- A switch to REFCLK is pending first (R110). -/
theorem switchClockCommand_ext (ha : sourceArg (s.arg 0) = some .ext) (h : s.clock.switching = .none)
    (hs : s.clock.source = .int) : switchClockCommand s = s.requestExt.finish .ok := by
  simp only [switchClockCommand, ha, h, SwitchState.isPending, Bool.false_eq_true, if_false, hs, reduceCtorEq]

/-- What a switch to INT leaves (R109, R111). -/
theorem switchToInt_eq (h : s.clock.switching = .none) :
    s.switchToInt = { s with
      clock := ⟨.int, .none, false, .idle, none⟩
      timebase := { s.timebase with phase := if s.timebase.running then some 0 else none }
      queue := queueAfter s.now s.queue ⟨s.now, .clockSwitched .int⟩ } := by
  rw [← h]
  exact post_eq _ _ _

/-- Settles O21: the source byte, then a pending switch, then the present source, then the switch itself. -/
theorem switchClockTable : Obligations.SwitchClockTable := by
  intro s ht
  have answers {r : ResultCode} (h : switchClockCommand (s.taken 0x28) = (s.taken 0x28).finish r) :
      exec .switchClock s = .next (answered s 0x28 r) := congrArg Host.Outcome.next (writeCmdByte_answers ht h)
  have takes {u : State} (h : switchClockCommand (s.taken 0x28) = u) : exec .switchClock s = .next u.advance :=
    congrArg Host.Outcome.next ((writeCmdByte_taken ht _ _).trans (congrArg State.advance h))
  refine ⟨fun h0 h1 => answers ?_, fun ha hp => ?_, fun hn ha => ?_, fun hn h0 hs => ?_, fun hn h1 hs => ?_⟩
  · rw [switchClockCommand, taken_arg, sourceArg_other h0 h1]
  · rcases ha with h0 | h1
    · exact answers (switchClockCommand_pending (s := s.taken 0x28) (sourceArg_of_zero h0) hp)
    · exact answers (switchClockCommand_pending (s := s.taken 0x28) (sourceArg_of_one h1) hp)
  · rcases ha with ⟨h0, hs⟩ | ⟨h1, hs⟩
    · exact answers (switchClockCommand_present (s := s.taken 0x28) (sourceArg_of_zero h0) hn hs.symm)
    · exact answers (switchClockCommand_present (s := s.taken 0x28) (sourceArg_of_one h1) hn hs.symm)
  · rw [takes (switchClockCommand_int (s := s.taken 0x28) (sourceArg_of_zero h0) hn hs), switchToInt_eq (s := s.taken 0x28) hn]
    rfl
  · rw [takes (switchClockCommand_ext (s := s.taken 0x28) (sourceArg_of_one h1) hn hs)]
    show Host.Outcome.next { answered s 0x28 .ok with
      clock := ⟨s.clock.source, .pendingExt 0, s.clock.degraded, .confirming 0, some 0⟩ } = _
    rw [hs]

/-! ### The REFCLK monitor (R108, R110 to R113) -/

/-- The 64th edge (R111). -/
theorem confirmSwitch_eq (s : State) :
    s.confirmSwitch = { s with
      clock := ⟨.ext, .none, false, .watching, some 0⟩
      timebase := { s.timebase with phase := if s.timebase.running then some 0 else none }
      queue := queueAfter s.now s.queue ⟨s.now, .clockSwitched .ext⟩ } := post_eq _ _ _

/-- The loss of the reference (R113). -/
theorem loseReference_eq (s : State) :
    s.loseReference = { s with
      clock := ⟨.int, s.clock.switching, true, .idle, none⟩
      timebase := { s.timebase with phase := if s.timebase.running then some 0 else none }
      queue := queueAfter s.now s.queue ⟨s.now, .clockLoss⟩ } := post_eq _ _ _

/-- Settles O22: by the state of the monitor, and the timeout by the switch. -/
theorem refclkMonitor : Obligations.RefclkMonitor := by
  refine fun s => ⟨fun h => ?_, fun h => ?_, fun n h => ⟨fun hn => ?_, fun hn => ?_, ?_⟩, fun h => ?_, fun n h => ?_⟩
  · exact ⟨by simp only [exec, execRefclkEdge, h], by simp only [exec, execGapTooLong, h]⟩
  · refine ⟨by simp only [exec, execRefclkEdge, h, State.withClock], ?_⟩
    simp only [exec, execGapTooLong, h, loseReference_eq]
  · simp only [exec, execRefclkEdge, h, if_pos hn, State.withClock]
  · simp only [exec, execRefclkEdge, h, if_neg (Nat.not_lt.2 hn), confirmSwitch_eq]
  · simp only [exec, execGapTooLong, h, State.withClock]
  · simp only [exec, execSwitchTimeout, h, SwitchState.isPending, Bool.false_eq_true, if_false]
  · simp only [exec, execSwitchTimeout, h, SwitchState.isPending, if_true, post_eq, Clock.abandonSwitch]
    rfl

end ClockUnit

end Sys2Proof.Machine
end

section
/-! The line commands, SAFE's line visits, pulses, HOLDN and the actions on a line (03). -/

namespace Sys2Proof.Machine

section LineRows
variable {s : State} {l : LineId}

/-! ### LOAD_PATTERN, CLEAR_PATTERN, CLEAR_TRIP and LOCK_LINES (R59, R66, R67, R71) -/

/-- A pattern length is 1 to 32 (R66). -/
theorem lengthArg_eq {b : Byte} (h1 : 1 ≤ b.toNat) (h32 : b.toNat ≤ 32) : lengthArg b = some b.toNat := if_pos ⟨h1, h32⟩

theorem lengthArg_none {b : Byte} (h : b = 0 ∨ 33 ≤ b.toNat) : lengthArg b = none := by
  refine if_neg fun hb => ?_
  rcases h with rfl | h
  · exact absurd hb.1 (by decide)
  · omega

/-- The line number of a line command is checked first (R10). -/
theorem loadPatternCommand_range (h : lineArg (s.arg 0) = none) : loadPatternCommand s = s.finish .range := by
  simp only [loadPatternCommand, h]

theorem clearPatternCommand_range (h : lineArg (s.arg 0) = none) : clearPatternCommand s = s.finish .range := by
  simp only [clearPatternCommand, h]

theorem clearTripCommand_range (h : lineArg (s.arg 0) = none) : clearTripCommand s = s.finish .range := by
  simp only [clearTripCommand, h]

/-- LOAD_PATTERN with a length out of bounds (R66). -/
theorem loadPatternCommand_length (hl : lineArg (s.arg 0) = some l) (h : lengthArg (s.arg 5) = none) :
    loadPatternCommand s = s.finish .range := by
  simp only [loadPatternCommand, hl, h]

/-- LOAD_PATTERN by the two buffers of the line (R66). -/
theorem loadPatternCommand_full {n : Nat} (hl : lineArg (s.arg 0) = some l) (hn : lengthArg (s.arg 5) = some n)
    (h : (s.line l).next.isSome = true) : loadPatternCommand s = s.finish .full := by
  simp only [loadPatternCommand, hl, hn, if_pos h]

theorem loadPatternCommand_current {n : Nat} (hl : lineArg (s.arg 0) = some l) (hn : lengthArg (s.arg 5) = some n)
    (h : (s.line l).next = none) (hc : (s.line l).current.count = 0) :
    loadPatternCommand s = (s.setLine l { s.line l with current := ⟨s.argWord1, n⟩ }).finish .ok := by
  simp only [loadPatternCommand, hl, hn, h, Option.isSome_none, Bool.false_eq_true, if_false, if_pos hc]

theorem loadPatternCommand_next {n : Nat} (hl : lineArg (s.arg 0) = some l) (hn : lengthArg (s.arg 5) = some n)
    (h : (s.line l).next = none) (hc : (s.line l).current.count ≠ 0) :
    loadPatternCommand s = (s.setLine l { s.line l with next := some ⟨s.argWord1, n⟩ }).finish .ok := by
  simp only [loadPatternCommand, hl, hn, h, Option.isSome_none, Bool.false_eq_true, if_false, if_neg hc]

theorem clearPatternCommand_eq (hl : lineArg (s.arg 0) = some l) :
    clearPatternCommand s = (s.setLine l (s.line l).clearPatterns).finish .ok := by
  simp only [clearPatternCommand, hl]

/-- CLEAR_TRIP by the mode of the line (R71). -/
theorem clearTripCommand_state (hl : lineArg (s.arg 0) = some l) (h : (s.line l).mode ≠ .tripped) :
    clearTripCommand s = s.finish .state := by
  simp only [clearTripCommand, hl]
  split
  · next hm => exact absurd hm h
  all_goals rfl

theorem clearTripCommand_tripped (hl : lineArg (s.arg 0) = some l) (h : (s.line l).mode = .tripped) :
    clearTripCommand s = (s.setLine l { s.line l with mode := .normal, guardCount := 0 }).finish .ok := by
  simp only [clearTripCommand, hl, h]

/-- Settles O23: the line number, then the command's own argument, then the line. -/
theorem lineCommands : Obligations.LineCommands := by
  intro s ht
  have takes {c : Byte} {owner : State → State} {u : State} (h : owner (s.taken c) = u) :
      Host.Outcome.next (s.writeCmdByte c owner) = (.next u.advance : Host.Outcome State Fault Refusal) :=
    congrArg Host.Outcome.next ((writeCmdByte_taken ht _ _).trans (congrArg State.advance h))
  refine ⟨fun h => ⟨?_, ?_, ?_⟩, fun h => ?_, fun h => ?_, fun l hl => ⟨fun h => ?_, fun h1 h32 => ⟨fun h => ?_, fun h hc => ?_,
    fun h hc => ?_⟩, ⟨_, takes (clearPatternCommand_eq (s := s.taken 0x31) (l := l) ?_), rfl, fun m hm => ?_, ?_⟩,
    fun h => ?_, fun h => ?_⟩⟩
  · exact takes (loadPatternCommand_range (s := s.taken 0x30) (lineArg_none h))
  · exact takes (clearPatternCommand_range (s := s.taken 0x31) (lineArg_none h))
  · exact takes (clearTripCommand_range (s := s.taken 0x32) (lineArg_none h))
  · exact takes (owner := lockLinesCommand) (if_pos h)
  · exact takes (owner := lockLinesCommand) (if_neg (Bool.eq_false_iff.1 h))
  · exact takes (loadPatternCommand_length (s := s.taken 0x30) (lineArg_eq hl) (lengthArg_none h))
  · exact takes (loadPatternCommand_full (s := s.taken 0x30) (lineArg_eq hl) (lengthArg_eq h1 h32) h)
  · exact takes (loadPatternCommand_current (s := s.taken 0x30) (lineArg_eq hl) (lengthArg_eq h1 h32) h hc)
  · exact takes (loadPatternCommand_next (s := s.taken 0x30) (lineArg_eq hl) (lengthArg_eq h1 h32) h hc)
  · exact lineArg_eq hl
  · exact State.setLine_line_of_ne (s := s.taken 0x31) (fun h => hm h.symm) _
  · have hline : ((s.setLine l (s.line l).clearPatterns).line l) = (s.line l).clearPatterns := State.setLine_line_self _ _ _
    have ht' : (((s.taken 0x31).setLine l ((s.taken 0x31).line l).clearPatterns).finish .ok).advance.line l
        = (s.line l).clearPatterns := hline
    rw [ht']
    exact ⟨rfl, rfl⟩
  · exact takes (clearTripCommand_state (s := s.taken 0x32) (lineArg_eq hl) h)
  · exact takes (clearTripCommand_tripped (s := s.taken 0x32) (lineArg_eq hl) h)

/-! ### SAFE (R74, R75) -/

/-- SAFE passes over a line that is not NORMAL (R75). -/
theorem safeVisit_other {x : Line} (h : x.mode ≠ .normal) : x.safeVisit = x := by
  unfold Line.safeVisit
  split
  · next hm => exact absurd hm h
  all_goals rfl

/-- A NORMAL line goes to rest at its safe level (R75). -/
theorem safeVisit_normal {x : Line} (h : x.mode = .normal) : x.safeVisit = { x with
    level := (if x.config.safe = .active then .active else .inactive), driven := decide (x.config.safe ≠ .float)
    pulse := none, current := Pattern.drained, next := none, guardCount := 0 } := by
  rw [← SafeLevel.level_eq, ← SafeLevel.driven_eq]
  have hsafed : x.safeVisit = x.safed := by simp only [Line.safeVisit, h]
  exact hsafed

/-- Settles O24: SAFE's taking, and its visit to a line. -/
theorem safeLines : Obligations.SafeLines := by
  refine ⟨fun s ht => congrArg Host.Outcome.next (writeCmdByte_taken ht _ _), fun s l w hw hnext => ?_⟩
  refine ⟨(s.setLine l (s.line l).safeVisit).work (afterLine l), ?_, ?_, fun m hm => ?_, fun h => ?_, fun h => ?_⟩
  · simp only [exec, execSafeLineVisit, hw]
  · rw [afterLine_eq hnext]
    rfl
  · exact State.setLine_line_of_ne s (fun h => hm h.symm) _
  · exact (State.setLine_line_self _ _ _).trans (safeVisit_other h)
  · rw [show ((s.setLine l (s.line l).safeVisit).work (afterLine l)).line l = (s.line l).safeVisit from
      State.setLine_line_self _ _ _, safeVisit_normal h]
    exact ⟨rfl, rfl⟩

/-! ### Pulses (R63) -/

/-- Settles O27: the release of a pulse is taken where it is due. -/
theorem pulseReleaseTaken : Obligations.PulseReleaseTaken := by
  refine fun s l => ⟨fun p hp hr hd => ?_, fun h => ?_, fun p hp h => ?_⟩
  · have hdue : s.isDue p.release = true := by rw [State.isDue, hr, decide_eq_true hd, Bool.and_true]
    simp only [exec, execReleaseOfAPulse, hp, if_pos hdue]
    rfl
  · simp only [exec, execReleaseOfAPulse, h]
  · have hdue : ¬ s.isDue p.release = true := by
      rw [State.isDue, Bool.and_eq_true, decide_eq_true_eq]
      rintro ⟨hr, hd⟩
      rcases h with h | h
      · rw [hr] at h; exact nomatch h
      · omega
    simp only [exec, execReleaseOfAPulse, hp, if_neg hdue]

/-! ### HOLDN (R72, R73) -/

/-- A NORMAL or TRIPPED line becomes FORCED at its safe level (R72). -/
theorem holdAsserted_forced {x : Line} {h : HeldMode} (hm : x.mode = .normal ∧ h = .normal ∨ x.mode = .tripped ∧ h = .tripped) :
    x.holdAsserted = { x with
      mode := .forced h
      level := (if x.config.safe = .active then .active else .inactive)
      driven := decide (x.config.safe ≠ .float)
      pulse := none, guardCount := 0 } := by
  rw [← SafeLevel.level_eq, ← SafeLevel.driven_eq]
  rcases hm with ⟨hm, rfl⟩ | ⟨hm, rfl⟩ <;> simp only [Line.holdAsserted, hm] <;> rfl

theorem holdAsserted_other {x : Line} (hn : x.mode ≠ .normal) (ht : x.mode ≠ .tripped) : x.holdAsserted = x := by
  unfold Line.holdAsserted
  split
  · next hm => exact absurd hm hn
  · next hm => exact absurd hm ht
  all_goals rfl

/-- A FORCED line returns by its held mode (R73). -/
theorem holdReleased_normal {x : Line} (h : x.mode = .forced .normal) : x.holdReleased = { x with
    mode := .normal
    level := (if x.config.safe = .active then .active else .inactive)
    driven := decide (x.config.safe ≠ .float), guardCount := 0 } := by
  rw [← SafeLevel.level_eq, ← SafeLevel.driven_eq]
  simp only [Line.holdReleased, h]
  rfl

theorem holdReleased_tripped {x : Line} (h : x.mode = .forced .tripped) :
    x.holdReleased = { x with mode := .tripped, level := .inactive, driven := true, guardCount := 0 } := by
  simp only [Line.holdReleased, h]

theorem holdReleased_other {x : Line} (h : ∀ held, x.mode ≠ .forced held) : x.holdReleased = x := by
  unfold Line.holdReleased
  split
  · next hm => exact absurd hm (h _)
  · next hm => exact absurd hm (h _)
  all_goals rfl

/-- Settles O28: the two edges on every line, each by the line's mode. -/
theorem holdnChanges : Obligations.HoldnChanges := by
  intro s
  refine ⟨fun h => congrArg Host.Outcome.next (if_pos h), fun h => congrArg Host.Outcome.next (if_neg (Bool.eq_false_iff.1 h)),
    fun h => ⟨_, congrArg Host.Outcome.next (if_neg (Bool.eq_false_iff.1 h)), rfl, fun l => ?_⟩,
    fun h => ⟨_, congrArg Host.Outcome.next (if_pos h), rfl, fun l => ?_⟩⟩
  · have hline : ((s.mapLines fun _ l => l.holdAsserted).withPins { s.pins with holdnLow := true }).line l
        = (s.line l).holdAsserted := State.mapLines_line s (fun _ l => l.holdAsserted) l
    rw [hline]
    exact ⟨fun held => holdAsserted_forced, holdAsserted_other⟩
  · have hline : ((s.mapLines fun _ l => l.holdReleased).withPins { s.pins with holdnLow := false }).line l
        = (s.line l).holdReleased := State.mapLines_line s (fun _ l => l.holdReleased) l
    rw [hline]
    exact ⟨holdReleased_normal, holdReleased_tripped, holdReleased_other⟩

end LineRows

/-! ### Actions on a line (R56, R60 to R62, R65) -/

section Actions
variable {l : Line}

/-- What an action that sets a level does to a NORMAL line (R60 to R62). -/
theorem act_sets (hm : l.mode = .normal) {action : Action} {level : Level}
    (h : action = .set ∧ level = .active ∨ action = .clear ∧ level = .inactive ∨ action = .pulse ∧ level = .active
      ∨ action = .toggle ∧ level = (if l.level = .active then .inactive else .active))
    (slot : SlotId) (width : BitVec 16) (tick : Tick) :
    l.act action slot width tick = ⟨{ l.takeLevel level with
      pulse := if action = .pulse then some ⟨slot, tick + width.setWidth 32⟩ else none }, l.answerTo slot, false⟩ := by
  rcases h with ⟨rfl, rfl⟩ | ⟨rfl, rfl⟩ | ⟨rfl, rfl⟩ | ⟨rfl, rfl⟩ <;> simp only [Line.act, hm]
  · rfl
  · rfl
  · rfl
  · have hflip : l.level.flip = if l.level = .active then .inactive else .active := by cases l.level <;> rfl
    rw [hflip]
    rfl

/-- The pin of a driven line, and of one that is not (R56). -/
theorem pin_not_driven (h : l.driven = false) : l.pin = .highImpedance := if_neg (Bool.eq_false_iff.1 h)

theorem pin_driven (h : l.driven = true) : l.pin = match l.config.drive, l.level, l.config.polarity with
    | .pushPull, .active, .activeHigh => .high
    | .pushPull, .active, .activeLow => .low
    | .pushPull, .inactive, .activeHigh => .low
    | .pushPull, .inactive, .activeLow => .high
    | .openDrain, .active, .activeHigh => .released
    | .openDrain, .active, .activeLow => .low
    | .openDrain, .inactive, .activeHigh => .low
    | .openDrain, .inactive, .activeLow => .released := (if_pos h).trans rfl

/-- An OPEN_DRAIN line never drives its pin high (R56). -/
theorem pin_ne_high (h : l.config.drive = .openDrain) : l.pin ≠ .high := by
  cases hd : l.driven with
  | false => rw [pin_not_driven hd]; nofun
  | true =>
    rw [pin_driven hd, h]
    cases l.level <;> cases l.config.polarity <;> nofun

/-- Settles O29: the actions by the mode of the line, and the pin by drive, level and polarity. -/
theorem actionsOnALine : Obligations.ActionsOnALine := by
  intro l action slot width tick level
  refine ⟨fun hm => Line.act_blocked hm _ _ _ _, fun hm h => ?_, pin_not_driven, fun hd hp => ?_, fun hd ho => ?_, pin_ne_high⟩
  · rw [act_sets hm h]
    exact ⟨rfl, rfl, Line.answerTo_done, fun p => Line.answerTo_preempted⟩
  · rw [pin_driven hd, hp]
    refine ⟨?_, ?_, ?_, ?_⟩ <;> exact fun hl hq => by rw [hl, hq]
  · rw [pin_driven hd, ho]
    refine ⟨?_, ?_, ?_, ?_⟩ <;> exact fun hl hq => by rw [hl, hq]

/-- SHIFT with a bit left (R65). -/
theorem act_shift_bit (hm : l.mode = .normal) (h : l.current.count ≠ 0) (slot : SlotId) (width : BitVec 16) (tick : Tick) :
    l.act .shift slot width tick = ⟨(l.takeLevel l.current.nextLevel).takeBit, l.answerTo slot,
      decide (l.current.count = 1) && l.next.isNone⟩ := by
  simp only [Line.act, hm]
  exact if_neg h

/-- The buffers of a line after a SHIFT (R65). -/
theorem takeBit_more (h : l.current.count ≠ 1) :
    l.takeBit = { l with current := { l.current with count := l.current.count - 1 } } := if_neg h

theorem takeBit_last_next {p : Pattern} (h : l.current.count = 1) (hn : l.next = some p) :
    l.takeBit = { l with current := p, next := none } := by
  rw [Line.takeBit, if_pos h, hn]

theorem takeBit_last (h : l.current.count = 1) (hn : l.next = none) :
    l.takeBit = { l with current := { l.current with count := 0 } } := by
  rw [Line.takeBit, if_pos h, hn]

/-- Settles O30: a SHIFT by what is left in the line's buffers. -/
theorem shiftTakesAPattern : Obligations.ShiftTakesAPattern := by
  intro l slot width tick hm
  refine ⟨fun h => ?_, fun level hlevel h => ?_⟩
  · simp only [Line.act, hm]
    exact if_pos h
  · subst hlevel
    rw [act_shift_bit hm h]
    refine ⟨_, rfl, takeBit_eq _, fun h2 => ?_, fun p h1 hn => ?_, fun h1 hn => ?_, ?_, Line.answerTo_done,
      fun p => Line.answerTo_preempted⟩
    · rw [takeBit_more (l := l.takeLevel _) (show l.current.count ≠ 1 by omega)]
      exact ⟨rfl, rfl⟩
    · rw [takeBit_last_next (l := l.takeLevel _) h1 hn]
      exact ⟨rfl, rfl⟩
    · rw [takeBit_last (l := l.takeLevel _) h1 hn]
      exact ⟨rfl, hn⟩
    · rw [Bool.and_eq_true, decide_eq_true_eq, Option.isNone_iff_eq_none]

end Actions

end Sys2Proof.Machine
end

section
/-! The line configuration commit row by row (R58, R59), and the guard tick on every line with its posts (R68, R69). -/

namespace Sys2Proof.Machine

/-! ### The configuration commit (R58, R59) -/

section Commit
variable {l : Line} {holdnLow : Bool} {new : LineConfig}

/-- A commit gives the line its five fields and leaves its pattern buffers (R58). -/
theorem commitEnable_frame (l : Line) (new : LineConfig) (holdnLow : Bool) :
    (l.commitEnable new holdnLow).config = new ∧ (l.commitEnable new holdnLow).current = l.current
      ∧ (l.commitEnable new holdnLow).next = l.next := by
  unfold Line.commitEnable
  split
  · cases holdnLow <;> exact ⟨rfl, rfl, rfl⟩
  · split <;> exact ⟨rfl, rfl, rfl⟩

theorem commit_frame (l : Line) (new : LineConfig) (holdnLow : Bool) :
    (l.commit new holdnLow).1.config = new ∧ (l.commit new holdnLow).1.current = l.current
      ∧ (l.commit new holdnLow).1.next = l.next := by
  have h := commitEnable_frame l new holdnLow
  have hsafe : ((l.commitEnable new holdnLow).commitSafe l.config.safe).config = new
      ∧ ((l.commitEnable new holdnLow).commitSafe l.config.safe).current = l.current
      ∧ ((l.commitEnable new holdnLow).commitSafe l.config.safe).next = l.next := by
    rw [commitSafe_eq]
    exact h
  simp only [Line.commit]
  split <;> exact hsafe

/-- A line becomes enabled with HOLDN high (R58, first row). -/
theorem commit_enabled (ho : l.config.enabled = false) (hn : new.enabled = true) :
    l.commit new false
      = ({ l with config := new, mode := .normal, level := .inactive, driven := true, guardCount := 0 }, false) := by
  have hline : (l.commitEnable new false).commitSafe l.config.safe
      = { l with config := new, mode := .normal, level := .inactive, driven := true, guardCount := 0 } := by
    rw [commitEnable_on ho hn, if_neg Bool.false_ne_true]
    exact commitSafe_notForced (fun _ => by nofun) _
  rw [commit_quiet (by rw [hline]; rfl), hline]

/-- A line becomes enabled with HOLDN low (R58, second row). -/
theorem commit_enabled_held (ho : l.config.enabled = false) (hn : new.enabled = true) :
    l.commit new true = ({ l with
      config := new, mode := .forced .normal, guardCount := 0
      level := (if new.safe = .active then .active else .inactive), driven := decide (new.safe ≠ .float) }, false) := by
  have hline : (l.commitEnable new true).commitSafe l.config.safe = { l with
      config := new, mode := .forced .normal, guardCount := 0
      level := (if new.safe = .active then .active else .inactive), driven := decide (new.safe ≠ .float) } := by
    rw [commitEnable_on ho hn, if_pos rfl, commitSafe_atSafeLevel, ← SafeLevel.level_eq, ← SafeLevel.driven_eq]
    rfl
  rw [commit_quiet (by rw [hline]; rfl), hline]

/-- A line becomes disabled (R58, third row). -/
theorem commit_disabled (ho : l.config.enabled = true) (hn : new.enabled = false) :
    l.commit new holdnLow = ({ l with
      config := new, mode := .off, level := .inactive, driven := false, pulse := none, guardCount := 0 }, false) := by
  have hline : (l.commitEnable new holdnLow).commitSafe l.config.safe = { l with
      config := new, mode := .off, level := .inactive, driven := false, pulse := none, guardCount := 0 } := by
    rw [commitEnable_off ho hn]
    exact commitSafe_notForced (fun _ => by nofun) _
  rw [commit_quiet (by rw [hline]; rfl), hline]

/-- A FORCED line takes a changed safe level at once (R58). -/
theorem commit_forced {held : HeldMode} (he : l.config.enabled = new.enabled) (hm : l.mode = .forced held)
    (hs : new.safe ≠ l.config.safe) :
    l.commit new holdnLow = ({ l with
      config := new
      level := (if new.safe = .active then .active else .inactive), driven := decide (new.safe ≠ .float) }, false) := by
  have hline : (l.commitEnable new holdnLow).commitSafe l.config.safe = { l with
      config := new
      level := (if new.safe = .active then .active else .inactive), driven := decide (new.safe ≠ .float) } := by
    rw [commitEnable_same he, ← SafeLevel.level_eq, ← SafeLevel.driven_eq]
    simp only [Line.commitSafe, hm]
    rw [if_pos (bne_iff_ne.2 hs), Line.atSafeLevel]
  rw [commit_quiet (by rw [hline]; exact guarded_eq_false (by rw [hm]; nofun)), hline]

/-- Where no safe level is taken, a commit on a line that stays enabled is its trip or its fields alone (R58). -/
theorem commit_same (he : l.config.enabled = new.enabled)
    (hs : (∀ held, l.mode ≠ .forced held) ∨ new.safe = l.config.safe) :
    l.commit new holdnLow =
      if ({ l with config := new } : Line).commitTrips l.config.guardLimit then
        (({ l with config := new } : Line).tripped, true)
      else ({ l with config := new }, false) := by
  have hline : (l.commitEnable new holdnLow).commitSafe l.config.safe = { l with config := new } := by
    rw [commitEnable_same he]
    rcases hs with hf | hs
    · exact commitSafe_notForced (l := { l with config := new }) hf _
    · unfold Line.commitSafe
      split
      · exact if_neg (by simp [hs])
      all_goals rfl
  rw [Line.commit, hline]

/-- When a changed guard limit trips a line at its commit (R58). -/
theorem commitTrips_iff (old : BitVec 16) : l.commitTrips old = true ↔
    l.config.guardLimit ≠ old ∧ l.config.guardLimit ≠ 0 ∧ (l.mode = .normal ∧ l.driven = true ∧ l.level = .active)
      ∧ l.config.guardLimit.toNat ≤ l.guardCount.toNat := by
  simp only [Line.commitTrips, Bool.and_eq_true, bne_iff_ne, guarded_eq_true_iff, decide_eq_true_eq, and_assoc]

end Commit

section CommitRow
variable {s : State} {l : LineId} {new : LineConfig}

/-- A commit under the lock (R59). -/
theorem commitLine_locked (h : s.lineUnit.locked = true) :
    s.commitLine new = { s with lineUnit := { s.lineUnit with lockViol := true } } := if_pos h

/-- A commit that the selected line takes (R58). -/
theorem commitLine_free (h : s.lineUnit.locked = false) (hl : s.selectedLine = l) :
    s.commitLine new = { s.setLine l ((s.line l).commit new s.pins.holdnLow).1 with
      queue := queueAfterAll s.now s.queue
        (((if ((s.line l).commit new s.pins.holdnLow).2 then some (NotificationBody.guardTrip l) else none).map
          fun b => ⟨s.now, b⟩).toList) } := by
  rw [State.commitLine, h, if_neg Bool.false_ne_true]
  dsimp only
  rw [postIf_eq, hl]
  rfl

/-- Settles O25: the lock, then the rows of R58 on the selected line. -/
theorem lineConfigurationCommits : Obligations.LineConfigurationCommits := by
  intro s v l new hw hsel hnew
  let u : State := s.withWindow
    { s.window with hold := { s.window.hold with lineConfig := putByte s.window.hold.lineConfig 2 v } }
  have hl : u.selectedLine = l := Fin.ext hsel.symm
  have hexec : exec (.lineConfigurationCommit v) s = .next (u.commitLine new).advance := by
    rw [hnew]
    exact congrArg Host.Outcome.next (writeAt_eq hw _)
  by_cases hk : s.lineUnit.locked = true
  · rw [commitLine_locked (s := u) hk] at hexec
    exact ⟨_, hexec, rfl, fun _ => ⟨rfl, rfl⟩, fun hf => absurd hk (Bool.eq_false_iff.1 hf)⟩
  · rw [commitLine_free (s := u) (Bool.eq_false_iff.2 hk) hl] at hexec
    have hline (c : Line × Bool) (hc : (s.line l).commit new s.pins.holdnLow = c) :
        (u.setLine l ((s.line l).commit new s.pins.holdnLow).1).line l = c.1 := by
      rw [State.setLine_line_self, hc]
    have hqueue (x : Line) (hc : (s.line l).commit new s.pins.holdnLow = (x, false)) :
        queueAfterAll s.now s.queue (((if ((s.line l).commit new s.pins.holdnLow).2 then
          some (NotificationBody.guardTrip l) else none).map fun b => ⟨s.now, b⟩).toList) = s.queue := by
      rw [hc]
      rfl
    obtain ⟨hcfg, hcur, hnext⟩ := commit_frame (s.line l) new s.pins.holdnLow
    have hself : (u.setLine l ((s.line l).commit new s.pins.holdnLow).1).line l
        = ((s.line l).commit new s.pins.holdnLow).1 := hline _ rfl
    refine ⟨_, hexec, rfl, fun h => absurd h hk, fun _ => ⟨rfl, fun m hm => ?_, ?_, ?_, ?_, fun ho hn hp => ?_,
      fun ho hn hp => ?_, fun ho hn => ?_, fun he => ⟨fun h hm hs => ?_, fun hm hd ha hne h0 hle => ?_, fun hs hg => ?_⟩⟩⟩
    · exact State.setLine_line_of_ne u (fun h => hm h.symm) _
    · exact (congrArg Line.config hself).trans hcfg
    · exact (congrArg Line.current hself).trans hcur
    · exact (congrArg Line.next hself).trans hnext
    · have hc := (congrArg (Line.commit (s.line l) new) hp).trans (commit_enabled ho hn)
      have hx := hline _ hc
      exact ⟨congrArg Line.mode hx, congrArg Line.level hx, congrArg Line.driven hx, (congrArg Line.pulse hx).trans rfl,
        congrArg Line.guardCount hx, hqueue _ hc⟩
    · have hc := (congrArg (Line.commit (s.line l) new) hp).trans (commit_enabled_held ho hn)
      have hx := hline _ hc
      exact ⟨congrArg Line.mode hx, congrArg Line.level hx, congrArg Line.driven hx, (congrArg Line.pulse hx).trans rfl,
        congrArg Line.guardCount hx, hqueue _ hc⟩
    · have hc := commit_disabled (holdnLow := s.pins.holdnLow) ho hn
      have hx := hline _ hc
      exact ⟨congrArg Line.mode hx, congrArg Line.level hx, congrArg Line.driven hx, (congrArg Line.pulse hx).trans rfl,
        congrArg Line.guardCount hx, hqueue _ hc⟩
    · have hc := commit_forced (holdnLow := s.pins.holdnLow) he hm hs
      exact ⟨hqueue _ hc, hline _ hc⟩
    · have htrip : ({ s.line l with config := new } : Line).commitTrips (s.line l).config.guardLimit = true :=
        (commitTrips_iff _).2 ⟨hne, h0, ⟨hm, hd, ha⟩, hle⟩
      have hc := (commit_same (holdnLow := s.pins.holdnLow) he (.inl fun held => by rw [hm]; nofun)).trans (if_pos htrip)
      refine ⟨hline _ hc, ?_⟩
      show queueAfterAll s.now s.queue (((if ((s.line l).commit new s.pins.holdnLow).2 then
        some (NotificationBody.guardTrip l) else none).map fun b => ⟨s.now, b⟩).toList) = _
      rw [hc]
      rfl
    · have htrip : ¬ ({ s.line l with config := new } : Line).commitTrips (s.line l).config.guardLimit = true := by
        rw [commitTrips_iff]
        rintro ⟨hne, h0, ⟨hm, hd, ha⟩, hle⟩
        rcases hg with hg | hg | hg | hg | hg | hg
        · exact hg hm
        · exact absurd (hd.symm.trans hg) nofun
        · exact absurd (ha.symm.trans hg) nofun
        · exact h0 hg
        · exact hne hg
        · exact absurd hle (Nat.not_le.2 hg)
      have hc := (commit_same (holdnLow := s.pins.holdnLow) he hs).trans (if_neg htrip)
      exact ⟨hline _ hc, hqueue _ hc⟩

end CommitRow

/-! ### The guard tick (R68, R69) -/

section Guard
variable {l : Line} {s : State}

/-- The count that a guard tick brings a line to (R68). -/
theorem nextGuardCount_eq (l : Line) : l.nextGuardCount = BitVec.ofNat 16 (min (l.guardCount.toNat + 1) 65535) := rfl

theorem nextGuardCount_toNat (l : Line) : l.nextGuardCount.toNat = min (l.guardCount.toNat + 1) 65535 := satAdd16_toNat _ 1

/-- When a guard tick trips a line (R69). -/
theorem guardTrips_iff : l.guardTrips = true ↔ (l.mode = .normal ∧ l.driven = true ∧ l.level = .active)
    ∧ l.config.guardLimit ≠ 0 ∧ l.config.guardLimit.toNat = min (l.guardCount.toNat + 1) 65535 := by
  simp only [Line.guardTrips, Bool.and_eq_true, bne_iff_ne, beq_iff_eq, guarded_eq_true_iff, ← BitVec.toNat_inj,
    nextGuardCount_toNat, eq_comm (b := l.config.guardLimit.toNat), and_assoc]

/-- A guard tick on a line that it does not count, trips, or counts (R68, R69). -/
theorem guardTick_uncounted (h : ¬ (l.mode = .normal ∧ l.driven = true ∧ l.level = .active)) : l.guardTick = l := by
  rw [Line.guardTick, if_neg fun ht => h (guardTrips_iff.1 ht).1, if_neg fun hg => h (guarded_eq_true_iff.1 hg)]

theorem guardTick_trips (h : l.guardTrips = true) : l.guardTick = l.tripped := if_pos h

theorem guardTick_counts (hg : l.mode = .normal ∧ l.driven = true ∧ l.level = .active) (h : ¬ l.guardTrips = true) :
    l.guardTick = { l with guardCount := BitVec.ofNat 16 (min (l.guardCount.toNat + 1) 65535) } := by
  rw [Line.guardTick, if_neg h, if_pos (guarded_eq_true_iff.2 hg), nextGuardCount_eq]

/-- The order in which the posts of the next guard tick reach the queue (log 9). -/
def State.tripOrder (s : State) : List LineId := orderByKey (Config.tripOrderKey s.draws) s.trippingLines

/-- The order holds each line that trips, once. -/
theorem mem_tripOrder (i : LineId) : i ∈ s.tripOrder ↔ (s.line i).guardTrips = true := by
  rw [State.tripOrder, (orderByKey_perm _ _).mem_iff, State.trippingLines, List.mem_filter]
  exact and_iff_right (List.mem_finRange i)

theorem tripOrder_nodup (s : State) : s.tripOrder.Nodup :=
  (orderByKey_perm _ _).nodup_iff.2 ((List.nodup_finRange 16).filter _)

/-- How many further posts the world lets happen at once (log 24). -/
theorem further_eq {n : Nat} (h : s.pauses.head? = some n ∨ s.pauses = [] ∧ n = 16) : s.further = n := by
  rw [State.further, List.headD_eq_head?_getD]
  rcases h with h | ⟨h, rfl⟩ <;> rw [h] <;> rfl

/-- Posts of the last guard tick are still to come: the row goes on with them (R69, log 24). -/
theorem guardTick_posts (h : s.lineUnit.trips ≠ []) :
    execGuardTick s = .next (s.postTrips (s.further + 1)).pauseTaken := by
  have hf : ¬ s.lineUnit.trips.isEmpty = true := fun he => h (List.isEmpty_iff.1 he)
  simp only [execGuardTick, if_neg hf]

/-- The guard tick itself, with those of its posts that nothing is let in before (R68, R69). -/
theorem guardTick_ticks {n : Nat} (h : s.lineUnit.trips = []) (hn : s.further = n) :
    execGuardTick s = .next { s with
      lineUnit := { s.lineUnit with
        lines := tabulate fun l => (s.line l).guardTick, trips := (s.tripOrder.drop (n + 1)).map fun l => (l, s.now) }
      draws := s.draws + 1, pauses := (if s.tripOrder = [] then s.pauses else s.pauses.tail)
      queue := queueAfterAll s.now s.queue ((s.tripOrder.take (n + 1)).map fun l => ⟨s.now, .guardTrip l⟩) } := by
  have ht : s.lineUnit.trips.isEmpty = true := List.isEmpty_iff.2 h
  have htrips : s.takeGuardTick.lineUnit.trips = s.tripOrder.map fun l => (l, s.now) := rfl
  simp only [execGuardTick, if_pos ht]
  by_cases ho : s.tripOrder = []
  · rw [if_pos (by rw [htrips, ho]; rfl), if_pos ho, takeGuardTick_eq, ho]
    show Host.Outcome.next { s with
      lineUnit := { s.lineUnit with
        lines := tabulate fun l => (s.line l).guardTick, trips := s.tripOrder.map fun l => (l, s.now) }
      draws := s.draws + 1 } = _
    rw [ho]
    rfl
  · rw [if_neg (by rw [htrips, List.isEmpty_iff, List.map_eq_nil_iff]; exact ho), if_neg ho, postTrips_eq, htrips,
      hn, ← List.map_drop, ← List.map_take, List.map_map]
    rfl

/-- Settles O26: the tick on every line by what it finds, and its posts in the order drawn. -/
theorem guardTickOnEveryLine : Obligations.GuardTickOnEveryLine := by
  intro s n hn
  have hn := further_eq hn
  refine ⟨fun ht => ⟨_, s.tripOrder, guardTick_ticks ht hn, rfl, tripOrder_nodup s, fun l => ?_⟩, fun ht => ?_⟩
  · have hline {u : LineUnit} (hu : u.lines = tabulate fun l => (s.line l).guardTick) :
        u.lines[l] = (s.line l).guardTick := by
      rw [hu]
      exact tabulate_getElem _ l.val l.isLt
    refine ⟨fun h => ?_, fun hm hd ha => ⟨fun h0 hmin => ?_, fun h => ?_⟩⟩
    · have hnot : ¬ ((s.line l).mode = .normal ∧ (s.line l).driven = true ∧ (s.line l).level = .active) := by
        rintro ⟨hm, hd, ha⟩
        rcases h with h | h | h
        · exact h hm
        · exact absurd (hd.symm.trans h) nofun
        · exact absurd (ha.symm.trans h) nofun
      exact ⟨(hline rfl).trans (guardTick_uncounted hnot), fun hmem =>
        hnot (guardTrips_iff.1 ((mem_tripOrder l).1 hmem)).1⟩
    · have htrips : (s.line l).guardTrips = true := guardTrips_iff.2 ⟨⟨hm, hd, ha⟩, h0, hmin⟩
      exact ⟨(hline rfl).trans (guardTick_trips htrips), (mem_tripOrder l).2 htrips⟩
    · have hnot : ¬ (s.line l).guardTrips = true := fun ht => by
        obtain ⟨-, h0, hmin⟩ := guardTrips_iff.1 ht
        exact h.elim h0 fun h => h hmin
      exact ⟨(hline rfl).trans (guardTick_counts ⟨hm, hd, ha⟩ hnot), fun hmem => hnot ((mem_tripOrder l).1 hmem)⟩
  · refine (guardTick_posts ht).trans ?_
    rw [postTrips_eq, hn]
    rfl

end Guard

end Sys2Proof.Machine
end

section
/-! The stages of a fire, each said once (02): what stage three makes of a line, how many occurrences a fire skips, what
stage five leaves of the fired slot, and what the chain stage and the reports do. -/

namespace Sys2Proof.Machine

/-! ### The skip count (R43 to R45) -/

section SkipCounts
variable {r : Slot} {now : Tick} {n k : Nat}

/-- A time that lies past, moved on by less than the half range. -/
theorem signedDistance_add {x t p : Tick} (h : signedDistance x t < 0) (hp : p.toNat < 2147483648) :
    signedDistance (x + p) t = signedDistance x t + p.toNat := by
  have hmove : x + p - t = (x - t) + p := by bv_omega
  simp only [signedDistance] at h ⊢
  rw [hmove]
  generalize x - t = y at h ⊢
  rw [BitVec.toInt_eq_toNat_cond] at h ⊢
  rw [BitVec.toInt_eq_toNat_cond, BitVec.toNat_add]
  omega

/-- Each occurrence is due one period after the one before (R43). -/
theorem laterDue_succ (r : Slot) (k : Nat) : laterDue r (k + 1) = laterDue r k + r.desc.period.setWidth 32 := by
  simp only [laterDue]
  generalize r.desc.period.setWidth 32 = p
  rw [show BitVec.ofNat 32 (k + 1 + 1) = BitVec.ofNat 32 (k + 1) + 1#32 from BitVec.ofNat_add _ _, BitVec.add_mul,
    BitVec.one_mul, BitVec.add_assoc]

/-- While the occurrences before it lie past, the lateness of an occurrence falls by one period each (R44). -/
theorem pastBy_laterDue (h : ∀ j, j < k → 0 < pastBy (laterDue r j) now) :
    pastBy (laterDue r k) now = pastBy (laterDue r 0) now - ((k * r.desc.period.toNat : Nat) : Int) := by
  induction k with
  | zero => simp
  | succ k ih =>
    have hk := h k (Nat.lt_succ_self k)
    have hp : (r.desc.period.setWidth 32).toNat = r.desc.period.toNat := by
      rw [BitVec.toNat_setWidth]
      have := r.desc.period.isLt
      omega
    have hstep := signedDistance_add (p := r.desc.period.setWidth 32) (show signedDistance (laterDue r k) now < 0 by
      simp only [pastBy] at hk; omega) (by rw [hp]; have := r.desc.period.isLt; omega)
    have hprev := ih fun j hj => h j (Nat.lt_succ_of_lt hj)
    simp only [pastBy] at hprev ⊢
    rw [laterDue_succ, hstep, hp, Nat.succ_mul]
    omega

/-- Every occurrence past by more than the tolerance is among those passed over (R44). -/
theorem le_overdueCount {past : Int} {tolerance period : Nat} (hp : 0 < period)
    (h : ∀ k, k < n → (tolerance : Int) < past - ((k * period : Nat) : Int)) : n ≤ overdueCount past tolerance period := by
  cases n with
  | zero => exact Nat.zero_le _
  | succ k =>
    have hk := h k (Nat.lt_succ_self k)
    rw [overdueCount, if_neg (by omega), Nat.le_div_iff_mul_le hp, Nat.succ_mul]
    omega

/-- An occurrence within the tolerance is not passed over (R44). -/
theorem overdueCount_le {past : Int} {tolerance period : Nat} (hp : 0 < period)
    (h : past - ((n * period : Nat) : Int) ≤ tolerance) : overdueCount past tolerance period ≤ n := by
  rw [overdueCount]
  split
  · exact Nat.zero_le _
  · rw [← Nat.lt_succ_iff, Nat.div_lt_iff_lt_mul hp, Nat.succ_mul]
    omega

end SkipCounts

section Accounting
variable {r : Slot} {c : FireCopy} {n : Nat}

/-- The repeats left after accounting, of a slot that is counted and of one that is not (R42). -/
theorem accounted_left (hc : c.desc.counted = true) : (r.accounted c.desc).repeatsLeft.toNat = leftAfter r := by
  have hleft : (r.accounted c.desc).repeatsLeft = BitVec.ofNat 16 (r.repeatsLeft.toNat - 1) := if_pos hc
  have := r.repeatsLeft.isLt
  rw [hleft, BitVec.toNat_ofNat, leftAfter]
  omega

theorem accounted_uncounted (hc : ¬ c.desc.counted = true) : (r.accounted c.desc).repeatsLeft = r.repeatsLeft := if_neg hc

/-- A slot is counted when it is periodic with repeats (R4). -/
theorem counted_iff (d : Descriptor) : d.counted = true ↔ d.period ≠ 0 ∧ d.repeats ≠ 0 := by
  rw [Descriptor.counted, Bool.and_eq_true, bne_iff_ne, bne_iff_ne]

theorem latePolicy_cases (x : LatePolicy) : x = .fire ∨ x = .drop := by cases x <;> simp

/-- What stage five finds of its slot: the record with the fire's descriptor and nominal due time, and `n` as what the
fire skips (R43 to R45). -/
structure Skipped (c : FireCopy) (r : Slot) (n : Nat) : Prop where
  desc    : r.desc = c.desc
  due     : r.due = c.nominal
  oneShot : r.desc.period = 0 → n = 0
  counts  : r.desc.period ≠ 0 → SkipCount r c.fireTick n

/-- The next nominal due time (R43). -/
theorem Skipped.nextNominal (h : Skipped c r n) : c.nextNominal = laterDue r 0 := by
  rw [FireCopy.nextNominal, laterDue, h.desc, h.due, BitVec.one_mul]

/-- The skip count is the one that R44 and R45 describe. -/
theorem Skipped.skips (h : Skipped c r n) : c.skips (r.accounted c.desc).repeatsLeft = n := by
  have hdesc := h.desc
  by_cases h0 : r.desc.period = 0
  · rw [FireCopy.skips, if_pos (.inl (hdesc ▸ h0)), h.oneShot h0]
  obtain ⟨hfire, hdrop⟩ := h.counts h0
  rcases latePolicy_cases r.desc.late with hl | hl
  · rw [FireCopy.skips, if_pos (.inr (hdesc ▸ hl)), hfire hl]
  obtain ⟨hpast, hcap, hend⟩ := hdrop hl
  have hperiod : 0 < r.desc.period.toNat := Nat.pos_of_ne_zero fun h => h0 (BitVec.eq_of_toNat_eq h)
  have hstep (k : Nat) (hk : k ≤ n) := pastBy_laterDue (now := c.fireTick) (r := r) (k := k) fun j hj => by
    have := hpast j (Nat.lt_of_lt_of_le hj hk)
    omega
  have hlow : n ≤ overdueCount (pastBy (laterDue r 0) c.fireTick) r.desc.tolerance.toNat r.desc.period.toNat :=
    le_overdueCount hperiod fun k hk => by
      rw [← hstep k hk.le]
      exact hpast k hk
  have hhigh (he : pastBy (laterDue r n) c.fireTick ≤ r.desc.tolerance.toNat) :
      overdueCount (pastBy (laterDue r 0) c.fireTick) r.desc.tolerance.toNat r.desc.period.toNat ≤ n :=
    overdueCount_le hperiod (by rw [← hstep n (Nat.le_refl n)]; exact he)
  rw [FireCopy.skips, if_neg (by rw [← hdesc, hl]; rintro (h | h); exacts [h0 h, nomatch h]), h.nextNominal, ← hdesc]
  dsimp only
  by_cases hc : r.desc.counted = true
  · have hleft := accounted_left (r := r) (hdesc ▸ hc)
    have hrep := ((counted_iff _).1 hc).2
    rw [if_pos hc, hdesc, hleft, ← hdesc]
    have := hcap hrep
    rcases hend with he | ⟨-, he⟩
    · have := hhigh he
      omega
    · omega
  · rw [if_neg hc]
    rcases hend with he | ⟨hr, -⟩
    · exact Nat.le_antisymm (hhigh he) hlow
    · exact absurd ((counted_iff _).2 ⟨h0, hr⟩) hc

/-- Stage five completes the slot exactly as R43 and R46 say. -/
theorem Skipped.completes (h : Skipped c r n) : c.completes (r.accounted c.desc).repeatsLeft = true ↔ Completes r n := by
  rw [FireCopy.completes, h.skips, Bool.or_eq_true, beq_iff_eq, Completes, h.desc, Bool.and_eq_true, beq_iff_eq]
  by_cases h0 : c.desc.period = 0
  · exact iff_of_true (.inl h0) (.inl h0)
  · refine or_congr_right ?_
    constructor
    · rintro ⟨hc, hn⟩
      exact ⟨((counted_iff _).1 hc).2, hn.trans (accounted_left hc)⟩
    · rintro ⟨hr, hn⟩
      have hc := (counted_iff _).2 ⟨h0, hr⟩
      exact ⟨hc, hn.trans (accounted_left hc).symm⟩

/-- A counter that stops at 65,535 has no use for more (R44). -/
theorem satAdd16_min (x : BitVec 16) (n : Nat) : satAdd16 x (min n 65535) = satAdd16 x n := by
  rw [satAdd16, satAdd16]
  congr 1
  omega

/-- The record of a slot that completes (R46). -/
theorem Skipped.completed (h : Skipped c r n) : (r.accounted c.desc).completed c n = completedRecord r n := by
  have hauto : c.desc.autoRelease = r.desc.autoRelease := by rw [h.desc]
  rw [Slot.completed, completedRecord, hauto, satAdd16_min, ← h.due]
  rfl

/-- The due time of a slot that is re-armed (R43, R44). -/
theorem Skipped.rearmDue (h : Skipped c r n) : c.rearmDue n = laterDue r n := by
  rw [FireCopy.rearmDue, h.nextNominal, laterDue, laterDue, h.desc, BitVec.one_mul, BitVec.ofNat_add, BitVec.add_mul,
    BitVec.one_mul, BitVec.add_assoc, BitVec.add_comm (BitVec.setWidth 32 c.desc.period)]

/-- The record of a slot that is re-armed (R44, R47). -/
theorem Skipped.rearmed (h : Skipped c r n) (hc : ¬ Completes r n) :
    { (r.accounted c.desc).rearmed c n with due := c.rearmDue n } = rearmedRecord r n := by
  have h0 : c.desc.period ≠ 0 := fun h0 => hc (.inl (h.desc ▸ h0))
  have hleft : ((r.accounted c.desc).rearmed c n).repeatsLeft
      = if r.desc.repeats ≠ 0 then BitVec.ofNat 16 (leftAfter r - n) else r.repeatsLeft := by
    by_cases hr : c.desc.counted = true
    · rw [if_pos (h.desc ▸ ((counted_iff _).1 hr).2), ← accounted_left hr]
      exact if_pos hr
    · rw [if_neg (h.desc ▸ fun hrep => hr ((counted_iff _).2 ⟨h0, hrep⟩))]
      exact (if_neg hr).trans (accounted_uncounted hr)
  rw [rearmedRecord, ← hleft, ← h.rearmDue, ← satAdd16_min r.skipTotal n]
  rfl

end Accounting

/-! ### Accounting and stage five (R42 to R47) -/

section Place
variable {s : State} {c : FireCopy} {n : Nat}

/-- Stage five completes a slot that has no entry (R46). -/
theorem accountAndPlace_completes (h : Skipped c { s.slot c.slot with due := c.nominal } n)
    (hc : Completes { s.slot c.slot with due := c.nominal } n) :
    s.accountAndPlace c = { s with
      slots := s.slots.set c.slot (completedRecord { s.slot c.slot with due := c.nominal } n) } := by
  have hskips : c.skips ((s.slot c.slot).accounted c.desc).repeatsLeft = n := h.skips
  have hcompletes : c.completes ((s.slot c.slot).accounted c.desc).repeatsLeft = true := h.completes.2 hc
  have hrec : ((s.slot c.slot).accounted c.desc).completed c n = completedRecord { s.slot c.slot with due := c.nominal } n :=
    h.completed
  unfold State.accountAndPlace
  dsimp only
  rw [hskips, if_pos hcompletes, hrec]
  rfl

/-- Stage five re-arms a slot that has no entry (R47). -/
theorem accountAndPlace_rearms (hn : ∀ e ∈ s.plist, e.slot ≠ c.slot)
    (h : Skipped c { s.slot c.slot with due := c.nominal } n)
    (hc : ¬ Completes { s.slot c.slot with due := c.nominal } n) :
    s.accountAndPlace c = { s with
      slots := s.slots.set c.slot
        (placedRecord (rearmedRecord { s.slot c.slot with due := c.nominal } n) (flagOf s c.slot) c.fireTick)
      plist := placedList s s.plist c.slot (laterDue { s.slot c.slot with due := c.nominal } n) (flagOf s c.slot) } := by
  have hskips : c.skips ((s.slot c.slot).accounted c.desc).repeatsLeft = n := h.skips
  have hcompletes : ¬ c.completes ((s.slot c.slot).accounted c.desc).repeatsLeft = true := fun ht => hc (h.completes.1 ht)
  have hrec : { ((s.slot c.slot).accounted c.desc).rearmed c n with due := c.rearmDue n }
      = rearmedRecord { s.slot c.slot with due := c.nominal } n := h.rearmed hc
  unfold State.accountAndPlace
  dsimp only
  rw [hskips, if_neg hcompletes, placeSlot_eq hn, hrec, h.rearmDue]
  rfl

end Place

/-! ### Apply or drop (R39 to R41, R65) -/

section Apply
variable {s : State} {c : FireCopy}

/-- When an occurrence is dropped (R40). -/
theorem drops_iff (d : Descriptor) (lam : Nat) : d.drops lam = true ↔ d.late = .drop ∧ d.tolerance.toNat < lam := by
  rw [Descriptor.drops, Bool.and_eq_true, beq_iff_eq, decide_eq_true_eq]

/-- No line is handed an action by a NOTIFY or without a line (R40, log 19). -/
theorem actsOn_none {d : Descriptor} (h : d.action = .notify ∨ d.line = none) : d.actsOn = none := by
  unfold Descriptor.actsOn
  split
  · rfl
  · next hn => exact h.resolve_left hn

theorem actsOn_line {d : Descriptor} {l : LineId} (ha : d.action ≠ .notify) (hl : d.line = some l) : d.actsOn = some l := by
  rw [Descriptor.actsOn, if_neg ha, hl]

/-- Stage three drops the occurrence (R40). -/
theorem applyStage_dropped (h : c.desc.drops c.lam = true) : s.applyStage c = s := if_pos h
theorem applied_dropped (h : c.desc.drops c.lam = true) : s.applied c = ⟨.dropped, none⟩ := if_pos h

/-- Stage three has no line to hand the action to (R40). -/
theorem applyStage_noLine (h : ¬ c.desc.drops c.lam = true) (hl : c.desc.actsOn = none) : s.applyStage c = s := by
  rw [State.applyStage, if_neg h, hl]

theorem applied_noLine (h : ¬ c.desc.drops c.lam = true) (hl : c.desc.actsOn = none) : s.applied c = ⟨.done, none⟩ := by
  rw [State.applied, if_neg h, hl]

/-- Stage three hands the action to its line (R41). -/
theorem applyStage_line {l : LineId} (h : ¬ c.desc.drops c.lam = true) (hl : c.desc.actsOn = some l) :
    s.applyStage c = { s with
      lineUnit := { s.lineUnit with lines := s.lineUnit.lines.set l (s.handOver c l).line }
      queue := (if (s.handOver c l).patternEmpty = true then queueAfter s.now s.queue ⟨s.now, .patternEmpty l⟩
        else s.queue) } := by
  rw [State.applyStage, if_neg h, hl]
  dsimp only
  rw [postIf_eq]
  cases (s.handOver c l).patternEmpty <;> rfl

theorem applied_line {l : LineId} (h : ¬ c.desc.drops c.lam = true) (hl : c.desc.actsOn = some l) :
    s.applied c = ⟨(s.handOver c l).answer.outcome, (s.handOver c l).answer.preemptedSlot⟩ := by
  rw [State.applied, if_neg h, hl]

/-- An occurrence is found dropped exactly where R40 drops it. -/
theorem applied_dropped_iff : (s.applied c).outcome = .dropped ↔ c.desc.drops c.lam = true := by
  refine ⟨fun h => ?_, fun h => by rw [applied_dropped h]⟩
  by_contra hd
  cases hl : c.desc.actsOn with
  | none => rw [applied_noLine hd hl] at h; exact nomatch h
  | some l =>
    rw [applied_line hd hl] at h
    cases ha : (s.handOver c l).answer <;> rw [ha] at h <;> exact nomatch h

/-- The PATTERN_EMPTY of stage three (R65). -/
def State.emptied (s : State) (c : FireCopy) : List Notification :=
  if c.desc.drops c.lam then []
  else
    match c.desc.actsOn with
    | none => []
    | some l => if (s.handOver c l).patternEmpty then [⟨s.now, .patternEmpty l⟩] else []

/-- Stage three reaches the lines and the queue alone, and of the lines the slot's own (R41). -/
theorem applyStage_frame (s : State) (c : FireCopy) :
    ∃ lines, s.applyStage c = { s with
        lineUnit := { s.lineUnit with lines := lines }, queue := queueAfterAll s.now s.queue (s.emptied c) }
      ∧ ∀ l : LineId, c.desc.line ≠ some l → lines[l] = s.line l := by
  by_cases hd : c.desc.drops c.lam = true
  · exact ⟨s.lineUnit.lines, by rw [applyStage_dropped hd, State.emptied, if_pos hd, queueAfterAll_nil], fun _ _ => rfl⟩
  · cases hl : c.desc.actsOn with
    | none =>
      refine ⟨s.lineUnit.lines, ?_, fun _ _ => rfl⟩
      simp only [applyStage_noLine hd hl, State.emptied, if_neg hd, hl, queueAfterAll_nil]
    | some l =>
      refine ⟨s.lineUnit.lines.set l (s.handOver c l).line, ?_, fun m hm => ?_⟩
      · simp only [applyStage_line hd hl, State.emptied, if_neg hd, hl]
        cases (s.handOver c l).patternEmpty <;> rfl
      · have hline : c.desc.line = some l := by
          unfold Descriptor.actsOn at hl
          split at hl
          · exact nomatch hl
          · exact hl
        exact State.setLine_line_of_ne s (fun h => hm (hline.trans (congrArg some h))) _

end Apply

/-! ### The chain stage (R48, R49) -/

section Chain
variable {s : State} {c : FireCopy} {outcome : FireOutcome} {j : SlotId}

theorem target_none (h : outcome = .dropped ∨ c.desc.chain = none) : c.target outcome = none := by
  unfold FireCopy.target
  split
  · rfl
  · next hn => exact h.resolve_left hn

theorem target_some (h : outcome ≠ .dropped) (hc : c.desc.chain = some j) : c.target outcome = some j := by
  rw [FireCopy.target, if_neg h, hc]

/-- A dropped occurrence, and one without a chain, arms and misses nothing (R48). -/
theorem chain_none (h : c.target outcome = none) : s.chain c outcome = s := by rw [State.chain, h]
theorem chainMissed_none (h : c.target outcome = none) : s.chainMissed c outcome = none := by rw [State.chainMissed, h]

/-- A LOADED target is armed (R48). -/
theorem chain_loaded (h : c.target outcome = some j) (hj : (s.slot j).state = .loaded) :
    s.chain c outcome = s.armSlot j c.chainDue c.fireTick := by
  simp only [State.chain, h, hj]

theorem chainMissed_loaded (h : c.target outcome = some j) (hj : (s.slot j).state = .loaded) :
    s.chainMissed c outcome = none := by
  simp only [State.chainMissed, h, hj]

/-- Any other target is missed (R49). -/
theorem chain_other (h : c.target outcome = some j) (hj : (s.slot j).state ≠ .loaded) : s.chain c outcome = s := by
  simp only [State.chain, h]
  split
  · next hl => exact absurd hl hj
  all_goals rfl

theorem chainMissed_other (h : c.target outcome = some j) (hj : (s.slot j).state ≠ .loaded) :
    s.chainMissed c outcome = some j := by
  simp only [State.chainMissed, h]
  split
  · next hl => exact absurd hl hj
  all_goals rfl

/-- The chain stage's effect on a LOADED target, as a whole state (R48). -/
theorem chain_arms (hm : ListMatchesSlots s) (h : c.target outcome = some j) (hj : (s.slot j).state = .loaded) :
    s.chain c outcome = { s with
      slots := s.slots.set j (placedRecord (freshRun (s.slot j) c.chainDue) (flagOf s j) c.fireTick)
      plist := placedList s s.plist j c.chainDue (flagOf s j) } := by
  have hn := not_listed hm (i := j) (by rw [hj]; nofun)
  rw [chain_loaded h hj, armSlot_eq hn]

end Chain

end Sys2Proof.Machine
end

section
/-! A fire as a whole and stage by stage: the states between its stages, its end, and what it leaves alone (02). -/

namespace Sys2Proof.Machine

/-! ### Stages one at a time (R38, R51, log 24) -/

section Stages
variable {s : State} {c : FireCopy} {stage : FireStage} {e : Entry} {rest : List Entry}

/-- Where the world lets others in after one stage, the row FIRE takes that stage (R38). -/
theorem fire_oneStage {more : List Nat} (hd : s.dispatcher = .firing c stage) (hp : s.pauses = 0 :: more) :
    exec .fire s = .next ((s.fireStage c stage).withPauses more) := by
  have hf : s.further = 0 := by rw [State.further, hp]; rfl
  have hpauses : (s.fireStage c stage).pauses = s.pauses := by
    obtain ⟨_, _, _, _, _, h⟩ := fireStage_frame s c stage
    rw [h]
  rw [execFire_firing hd, hf, runFire_succ hd, State.pauseTaken]
  show Host.Outcome.next ((s.fireStage c stage).withPauses (s.fireStage c stage).pauses.tail) = _
  rw [hpauses, hp, List.tail_cons]

/-- The row FIRE takes a due head (R37, R38). -/
theorem fire_head (hd : DueHead s e rest) :
    exec .fire s = .next (((s.takeHead e rest).runFire s.further).withPauses s.pauses.tail) := by
  obtain ⟨hlist, hidle, hrun, hdue⟩ := hd
  have hhead : s.headDue e = true := by rw [State.headDue, hrun, decide_eq_true hdue, Bool.and_true]
  simp only [exec, execFire, hidle, hlist, if_pos hhead, State.pauseTaken, runFire_pauses]
  rfl

/-- Without a due head the Dispatcher takes nothing (R37). -/
theorem fire_noHead (hidle : s.dispatcher = .idle) (h : ∀ e rest, ¬ DueHead s e rest) : exec .fire s = .next s := by
  cases hlist : s.plist with
  | nil => simp only [exec, execFire, hidle, hlist]
  | cons e rest =>
    have hhead : ¬ s.headDue e = true := by
      rw [State.headDue, Bool.and_eq_true, decide_eq_true_eq]
      rintro ⟨hrun, hdue⟩
      exact h e rest ⟨hlist, hidle, hrun, hdue⟩
    simp only [exec, execFire, hidle, hlist, if_neg hhead]

/-- The row FIRE first takes the head or one stage, whatever the pauses, and then as many stages as they let it (R38). -/
theorem fire_goes (h : s.dispatcher ≠ .idle ∨ ∃ e rest, DueHead s e rest) :
    ∃ x : State, ∀ p : List Nat, exec .fire (s.withPauses p) = .next ((x.runFire (p.headD 16)).withPauses p.tail) := by
  by_cases hidle : s.dispatcher = .idle
  · obtain ⟨e, rest, hd⟩ := h.resolve_left (not_not_intro hidle)
    refine ⟨s.takeHead e rest, fun p => ?_⟩
    rw [fire_head (s := s.withPauses p) (e := e) (rest := rest) hd]
    show Host.Outcome.next ((((s.takeHead e rest).withPauses p).runFire (p.headD 16)).withPauses p.tail) = _
    rw [runFire_withPauses]
    rfl
  · cases hd : s.dispatcher with
    | idle => exact absurd hd hidle
    | firing c stage =>
      refine ⟨s.fireStage c stage, fun p => ?_⟩
      rw [execFire_firing (s := s.withPauses p) hd, runFire_withPauses, runFire_succ hd, State.pauseTaken]
      rfl

end Stages

/-! ### The states between the stages of a fire that nothing falls into -/

section Whole
variable {s : State} {e : Entry} {rest : List Entry}

/-- What stage three finds of the fire of `e` (R40, R41). -/
def State.appliedOf (s : State) (e : Entry) : Applied := s.applied (s.fireCopy e)

/-- What the fire of `e` skips, and whether it completes its slot (R43 to R46). -/
def State.skipsOf (s : State) (e : Entry) : Nat := (s.fireCopy e).skips (s.leftAfterAccounting (s.fireCopy e))
def State.completesOf (s : State) (e : Entry) : Bool := (s.fireCopy e).completes (s.leftAfterAccounting (s.fireCopy e))

/-- After the taking and stage three. -/
def State.afterApply (s : State) (e : Entry) (rest : List Entry) : State :=
  (s.takeHead e rest).fireStage (s.fireCopy e) .apply

/-- After accounting and stage five. -/
def State.afterPlace (s : State) (e : Entry) (rest : List Entry) : State :=
  (s.afterApply e rest).fireStage (s.fireCopy e) (.place (s.appliedOf e))

/-- The end of the fire, its later happenings let in as `pauses` has them. -/
def State.fired (s : State) (e : Entry) (rest : List Entry) : State :=
  (s.takeHead e rest).endFire.withPauses s.pauses.tail

/-- A due head that nothing falls into is fired whole (R38). -/
theorem fire_whole (hd : DueHead s e rest) (hw : RunsWhole s 5) : exec .fire s = .next (s.fired e rest) := by
  have hfurther : 5 ≤ s.further := by
    cases hp : s.pauses with
    | nil => rw [State.further, hp]; decide
    | cons n more =>
      rw [State.further, hp]
      exact hw n (by rw [hp]; rfl)
  rw [fire_head hd, runFire_whole hfurther]
  rfl

/-- The FIRE notification of a fire, and the CHAIN_MISS after it (R50, R51). -/
def FireCopy.fires (c : FireCopy) (a : Applied) (last : Bool) (skips : Nat) : List Notification :=
  if c.desc.notify.calls last then [⟨c.stamp, .fire (c.report a last skips)⟩] else []

def FireCopy.misses (c : FireCopy) (missed : Option SlotId) : List Notification :=
  (missed.map fun j => ⟨c.stamp, .chainMiss c.slot j⟩).toList

/-- The notify stage (R50). -/
theorem notifyStage_eq (s : State) (c : FireCopy) (a : Applied) (last : Bool) (skips : Nat) (missed : Option SlotId) :
    s.fireStage c (.notify a last skips missed) = { s with
      queue := queueAfterAll s.now s.queue (c.fires a last skips)
      dispatcher := match missed with | some j => .firing c (.miss j) | none => .idle } := by
  simp only [State.fireStage, postIf_eq, FireCopy.fires]
  split <;> rfl

/-- The stage of CHAIN_MISS (R51). -/
theorem missStage_eq (s : State) (c : FireCopy) (j : SlotId) :
    s.fireStage c (.miss j)
      = { s with queue := queueAfter s.now s.queue ⟨c.stamp, .chainMiss c.slot j⟩, dispatcher := .idle } := by
  simp only [State.fireStage, post_eq]
  rfl

/-- The reports of a fire are its end (R50, R51). -/
theorem reports_end {c : FireCopy} {a : Applied} {last : Bool} {skips : Nat} {missed : Option SlotId}
    (hd : s.dispatcher = .firing c (.notify a last skips missed)) :
    s.runFire 2 = { s with
      queue := queueAfterAll s.now s.queue (c.fires a last skips ++ c.misses missed), dispatcher := .idle } := by
  rw [runFire_succ hd, notifyStage_eq, queueAfterAll_append]
  cases missed with
  | none => exact runFire_idle rfl 1
  | some j => exact (runFire_succ rfl 0).trans (missStage_eq _ c j)

/-- Stage three of the fire of `e`. -/
theorem afterApply_eq (s : State) (e : Entry) (rest : List Entry) :
    s.afterApply e rest = { s with
      plist := rest, dispatcher := .firing (s.fireCopy e) (.place (s.appliedOf e))
      lineUnit := ((s.takeHead e rest).applyStage (s.fireCopy e)).lineUnit
      queue := queueAfterAll s.now s.queue (s.emptied (s.fireCopy e)) } := by
  obtain ⟨lines, hframe, -⟩ := applyStage_frame (s.takeHead e rest) (s.fireCopy e)
  rw [State.afterApply, State.fireStage, hframe]
  rfl

/-- Accounting and stage five of the fire of `e` reach the slots and the list alone. -/
theorem afterPlace_frame (s : State) (e : Entry) (rest : List Entry) :
    ∃ slots list, s.afterPlace e rest = { s with
        slots := slots, plist := list
        dispatcher := .firing (s.fireCopy e) (.chain (s.appliedOf e) (s.completesOf e) (s.skipsOf e))
        lineUnit := ((s.takeHead e rest).applyStage (s.fireCopy e)).lineUnit
        queue := queueAfterAll s.now s.queue (s.emptied (s.fireCopy e)) }
      ∧ (∀ j, j ≠ e.slot → slots[j] = s.slot j)
      ∧ ∀ j k, j ≠ e.slot → (⟨j, k⟩ ∈ list ↔ ⟨j, k⟩ ∈ rest) := by
  obtain ⟨slots, list, hframe, hslots, hlist⟩ := accountAndPlace_frame (s.afterApply e rest) (s.fireCopy e)
  refine ⟨slots, list, ?_, ?_⟩
  · rw [State.afterPlace, State.fireStage, hframe, afterApply_eq]
    rfl
  · rw [afterApply_eq] at hslots hlist
    exact ⟨hslots, hlist⟩

/-- The end of a fire: the chain stage, then the reports (R48 to R51). -/
theorem fired_eq (s : State) (e : Entry) (rest : List Entry) :
    s.fired e rest = { (s.afterPlace e rest).chain (s.fireCopy e) (s.appliedOf e).outcome with
      dispatcher := .idle, pauses := s.pauses.tail
      queue := queueAfterAll s.now s.queue (s.emptied (s.fireCopy e)
        ++ ((s.fireCopy e).fires (s.appliedOf e) (s.completesOf e) (s.skipsOf e)
          ++ (s.fireCopy e).misses ((s.afterPlace e rest).chainMissed (s.fireCopy e) (s.appliedOf e).outcome))) } := by
  have hplaced : (s.afterPlace e rest).dispatcher
      = .firing (s.fireCopy e) (.chain (s.appliedOf e) (s.completesOf e) (s.skipsOf e)) := by
    obtain ⟨_, _, h, -⟩ := afterPlace_frame s e rest
    rw [h]
  have hqueue : (s.afterPlace e rest).queue = queueAfterAll s.now s.queue (s.emptied (s.fireCopy e))
      ∧ (s.afterPlace e rest).now = s.now := by
    obtain ⟨_, _, h, -⟩ := afterPlace_frame s e rest
    rw [h]
    exact ⟨rfl, rfl⟩
  have hend : (s.takeHead e rest).endFire = (s.afterPlace e rest).runFire 3 := by
    rw [State.endFire, runFire_succ (c := s.fireCopy e) (stage := .apply) rfl]
    exact runFire_succ (s := s.afterApply e rest) (by rw [afterApply_eq]) 3
  obtain ⟨slots, list, hchain, -⟩ := chain_frame (s.afterPlace e rest) (s.fireCopy e) (s.appliedOf e).outcome
  rw [State.fired, hend, runFire_succ hplaced, reports_end (by rfl), queueAfterAll_append s.now s.queue (s.emptied _), State.fireStage, hchain, ← hqueue.1]
  simp only [State.withPauses, State.withDispatcher, State.now] at hqueue ⊢
  rw [hqueue.2]

/-- What a whole fire reaches (R38, R54). -/
theorem fired_frame (s : State) (e : Entry) (rest : List Entry) :
    ∃ slots list lines entries, s.fired e rest = { s with
      slots := slots, plist := list, dispatcher := .idle, pauses := s.pauses.tail
      lineUnit := { s.lineUnit with lines := lines }, queue := { s.queue with entries := entries } } := by
  obtain ⟨slots, list, lines, entries, d, h⟩ := runFire_frame 5 (s.takeHead e rest)
  have hidle : d = .idle := by
    have := endFire_dispatcher (s.takeHead e rest)
    rw [State.endFire, h] at this
    exact this
  refine ⟨slots, list, lines, entries, ?_⟩
  rw [State.fired, State.endFire, h, hidle]
  rfl

/-- A fire keeps R27. -/
theorem fired_listMatches (hd : DueHead s e rest) (hm : ListMatchesSlots s) : ListMatchesSlots (s.fired e rest) := by
  have h : ListMatchesSlots (s.takeHead e rest).endFire :=
    (runFire_fireReach 5 _).keeps (fun _ _ hc h => hc.listMatches h) (takeHead_listMatches hd hm)
  exact h

/-- Settles O31: what a whole fire reaches, and the row's stages taken in two goes. -/
theorem fireTakesTheDueHead : Obligations.FireTakesTheDueHead := by
  refine ⟨fun s => fire_noHead, fun s e rest hd => ⟨fun hw => ⟨_, fire_whole hd hw, ?_⟩, fun more hp => ?_⟩, fun s h => ?_⟩
  · obtain ⟨slots, list, hplace, hslots, hlist⟩ := afterPlace_frame s e rest
    obtain ⟨lines, hlines, hother⟩ := applyStage_frame (s.takeHead e rest) (s.fireCopy e)
    obtain ⟨slots', list', hchain, hslots', hlist'⟩ :=
      chain_frame (s.afterPlace e rest) (s.fireCopy e) (s.appliedOf e).outcome
    rw [hlines] at hplace
    rw [hplace] at hchain hslots' hlist'
    refine ⟨?_, ?_⟩
    · obtain ⟨_, _, _, _, h⟩ := fired_frame s e rest
      rw [h, ← hd.2.1]
    · rw [fired_eq, hplace, hchain]
      exact ⟨hother, fun j hj hc => (hslots' j hc).trans (hslots j hj),
        fun j hj hc k => (hlist' j k hc).trans (hlist j k hj)⟩
  · have hf : s.further = 0 := by rw [State.further, hp]; rfl
    rw [fire_head hd, hf, hp]
    rfl
  · obtain ⟨x, hx⟩ := fire_goes h
    refine ⟨fun hp => ?_, fun n more m hp hm => ?_⟩
    · have hs : s = s.withPauses [] := by rw [← hp]; rfl
      refine (congrArg (exec .fire) hs).trans ((hx []).trans (Eq.trans ?_ (hx [5]).symm))
      show Host.Outcome.next ((x.runFire 16).withPauses []) = .next ((x.runFire 5).withPauses [])
      rw [runFire_whole (by decide), State.endFire]
    · have hs : s = s.withPauses ((n + 1) :: more) := by rw [← hp]; rfl
      have hfire : exec .fire s = .next ((x.runFire (n + 1)).withPauses more) :=
        (congrArg (exec .fire) hs).trans (hx ((n + 1) :: more))
      have hmx : m = x.withPauses (n :: more) := by
        have := (hx (0 :: n :: more)).symm.trans hm
        cases this
        rfl
      rw [hfire, hmx]
      refine ⟨fun hfiring => ?_, fun hidle => ?_⟩
      · cases hd : x.dispatcher with
        | idle => exact absurd hd hfiring
        | firing c stage =>
          rw [execFire_firing (s := x.withPauses (n :: more)) hd, runFire_withPauses]
          rfl
      · rw [runFire_idle (s := x) hidle]
        rfl

end Whole

end Sys2Proof.Machine
end

section
/-! Apply or drop, accounting and placing (02): a whole fire, and each stage alone. -/

namespace Sys2Proof.Machine

section Fired
variable {s : State} {e : Entry} {rest : List Entry} {n : Nat}

/-! ### Apply or drop (R39 to R41) -/

/-- The copy of a fire drops the occurrence exactly where R40 does. -/
theorem fireCopy_drops_iff : (s.fireCopy e).desc.drops (s.fireCopy e).lam = true ↔ Dropped s e := by
  rw [drops_iff, Dropped]
  refine and_congr_right fun _ => ?_
  show (s.slot e.slot).desc.tolerance.toNat < (-(s.entryDist s.now e)).toNat ↔ _
  omega

/-- The lines after a whole fire are those that stage three leaves (R41). -/
theorem fired_lineUnit (s : State) (e : Entry) (rest : List Entry) :
    (s.fired e rest).lineUnit = ((s.takeHead e rest).applyStage (s.fireCopy e)).lineUnit := by
  obtain ⟨slots, list, hplace, -⟩ := afterPlace_frame s e rest
  obtain ⟨slots', list', hchain, -⟩ := chain_frame (s.afterPlace e rest) (s.fireCopy e) (s.appliedOf e).outcome
  rw [fired_eq, hchain, hplace]

/-- What the answer of the Line Unit leaves for the later stages (R41). -/
theorem answer_applied {x : LineAnswer} {a : Applied} (ha : a = ⟨x.outcome, x.preemptedSlot⟩) :
    (x = .done → a = ⟨.done, none⟩) ∧ (x = .underrun → a = ⟨.underrun, none⟩) ∧ (x = .blocked → a = ⟨.blocked, none⟩)
      ∧ ∀ p, x = .preempted p → a = ⟨.preempt, some p⟩ := by
  subst ha
  exact ⟨fun h => by rw [h]; rfl, fun h => by rw [h]; rfl, fun h => by rw [h]; rfl, fun p h => by rw [h]; rfl⟩

/-- Settles O33: by whether the occurrence is dropped and whether it has a line to act on. -/
theorem fireApplies : Obligations.FireApplies := by
  refine ⟨fun s e rest hd hw => ⟨_, fire_whole hd hw, ?_⟩, fun s c more hd hp => ?_⟩
  · rw [fired_lineUnit]
    refine ⟨fun h => ?_, fun h => ?_, fun l h ha hl => ?_⟩
    · rw [applyStage_dropped (fireCopy_drops_iff.2 h)]
      rfl
    · by_cases hdrop : (s.fireCopy e).desc.drops (s.fireCopy e).lam = true
      · rw [applyStage_dropped hdrop]
        rfl
      · rw [applyStage_noLine hdrop (actsOn_none (.inl h))]
        rfl
    · have hline : (s.fired e rest).line l = ((s.takeHead e rest).applyStage (s.fireCopy e)).line l :=
        congrArg (fun u : LineUnit => u.lines[l]) (fired_lineUnit s e rest)
      rw [hline, applyStage_line (fun hdrop => h (fireCopy_drops_iff.1 hdrop)) (actsOn_line ha hl)]
      exact State.setLine_line_self s l _
  · rw [fire_oneStage hd hp]
    refine ⟨fun h => ?_, fun h ha => ?_, fun l r h ha hl hr => ?_⟩
    · have hdrop := (drops_iff c.desc c.lam).2 h
      rw [State.fireStage, applyStage_dropped hdrop, applied_dropped hdrop]
      rfl
    · have hdrop : ¬ c.desc.drops c.lam = true := fun hdrop => h ((drops_iff _ _).1 hdrop)
      rw [State.fireStage, applyStage_noLine hdrop (actsOn_none ha), applied_noLine hdrop (actsOn_none ha)]
      rfl
    · have hdrop : ¬ c.desc.drops c.lam = true := fun hdrop => h ((drops_iff _ _).1 hdrop)
      have hr : s.handOver c l = r := hr.symm
      rw [State.fireStage, applyStage_line hdrop (actsOn_line ha hl), applied_line hdrop (actsOn_line ha hl), hr]
      exact ⟨_, rfl, answer_applied rfl⟩

/-! ### Accounting and placing (R42 to R47, R82) -/

/-- The head of a list has no entry behind it (R27). -/
theorem head_not_behind (hd : DueHead s e rest) (hm : ListMatchesSlots s) : ∀ x ∈ rest, x.slot ≠ e.slot :=
  unplaced_not_listed (takeHead_listMatches hd hm) (unplaced_of_not_placed (c := s.fireCopy e) rfl rfl)

/-- Stage five of a fire finds the slot's record and the skip count of R44. -/
theorem skipped_head (h : Skips s e n) : Skipped (s.fireCopy e) (s.slot e.slot) n := by
  obtain ⟨hone, hcounts⟩ := h
  exact ⟨rfl, rfl, hone, hcounts⟩

theorem skipsOf_eq (h : Skips s e n) : s.skipsOf e = n := (skipped_head h).skips

theorem completesOf_iff (h : Skips s e n) : s.completesOf e = true ↔ Completes (s.slot e.slot) n := (skipped_head h).completes

/-- The state that stage five of a whole fire leaves (R46, R47). -/
theorem afterPlace_eq {r5 : Slot} {list5 : List Entry} (hd : DueHead s e rest) (hm : ListMatchesSlots s) (hk : Skips s e n)
    (hc : Completes (s.slot e.slot) n → r5 = completedRecord (s.slot e.slot) n ∧ list5 = rest)
    (hr : ¬ Completes (s.slot e.slot) n →
      r5 = placedRecord (rearmedRecord (s.slot e.slot) n) (flagOf s e.slot) s.now
        ∧ list5 = placedList s rest e.slot (laterDue (s.slot e.slot) n) (flagOf s e.slot)) :
    s.afterPlace e rest = { s with
      slots := s.slots.set e.slot r5, plist := list5
      dispatcher := .firing (s.fireCopy e) (.chain (s.appliedOf e) (s.completesOf e) n)
      lineUnit := ((s.takeHead e rest).applyStage (s.fireCopy e)).lineUnit
      queue := queueAfterAll s.now s.queue (s.emptied (s.fireCopy e)) } := by
  have hplace : (s.afterApply e rest).accountAndPlace (s.fireCopy e)
      = { s.afterApply e rest with slots := s.slots.set e.slot r5, plist := list5 } := by
    rw [afterApply_eq]
    by_cases h : Completes (s.slot e.slot) n
    · obtain ⟨rfl, rfl⟩ := hc h
      exact accountAndPlace_completes (skipped_head hk) h
    · obtain ⟨rfl, rfl⟩ := hr h
      exact accountAndPlace_rearms (head_not_behind hd hm) (skipped_head hk) h
  have hleft : (s.afterApply e rest).leftAfterAccounting (s.fireCopy e) = s.leftAfterAccounting (s.fireCopy e) := by
    rw [afterApply_eq]
    rfl
  rw [State.afterPlace, State.fireStage, hleft, hplace, afterApply_eq]
  have hskips := skipsOf_eq hk
  rw [State.skipsOf] at hskips
  dsimp only
  rw [hskips]
  rfl

/-- The slots and the list after a whole fire are those that the chain stage leaves (R48). -/
theorem fired_slot (s : State) (e : Entry) (rest : List Entry) (i : SlotId) :
    (s.fired e rest).slot i = ((s.afterPlace e rest).chain (s.fireCopy e) (s.appliedOf e).outcome).slot i := by
  rw [fired_eq]
  rfl

theorem fired_plist (s : State) (e : Entry) (rest : List Entry) :
    (s.fired e rest).plist = ((s.afterPlace e rest).chain (s.fireCopy e) (s.appliedOf e).outcome).plist := by
  rw [fired_eq]

/-- With the Dispatcher IDLE a slot has an entry exactly where it is PENDING (R27). -/
theorem listed_eq {t : State} (hm : ListMatchesSlots t) (hidle : t.dispatcher = .idle) (i : SlotId) :
    t.listed i = decide ((t.slot i).state = .pending) := by
  have h := hm.2 i
  rw [unplaced_idle hidle, if_neg nofun] at h
  rw [Bool.eq_iff_iff, decide_eq_true_eq]
  exact h

/-- A placed record is PENDING exactly where the flag is lowered (R16). -/
theorem placedRecord_state (r : Slot) (flag : Bool) (ref : Tick) :
    (placedRecord r flag ref).state = if flag then .suspended else .pending := by
  cases flag <;> rfl

theorem fired_listed_placed (hd : DueHead s e rest) (hm : ListMatchesSlots s) {i : SlotId} {r : Slot} {flag : Bool} {ref : Tick}
    (h : (s.fired e rest).slot i = placedRecord r flag ref) : (s.fired e rest).listed i = !flag := by
  obtain ⟨_, _, _, _, hf⟩ := fired_frame s e rest
  rw [listed_eq (fired_listMatches hd hm) (by rw [hf]), h, placedRecord_state]
  cases flag <;> rfl

/-- A completed slot is LOADED or EMPTY (R46). -/
theorem completedRecord_state (r : Slot) (n : Nat) :
    (completedRecord r n).state = if r.desc.autoRelease then .empty else .loaded := by
  unfold completedRecord
  split <;> rfl

theorem completedRecord_not_pending (r : Slot) (n : Nat) : (completedRecord r n).state ≠ .pending := by
  rw [completedRecord_state]
  split <;> nofun

/-- The chain stage of a fire that has no other slot to arm leaves the fired slot (R48). -/
theorem chain_slot_of_ne {c : FireCopy} {outcome : FireOutcome} {i : SlotId} (h : c.target outcome ≠ some i) :
    (s.chain c outcome).slot i = s.slot i := by
  by_cases hc : c.desc.chain = some i
  · rw [chain_none]
    by_contra hn
    exact h (target_some (fun ho => hn (target_none (.inl ho))) hc)
  · obtain ⟨_, _, hframe, hslots, -⟩ := chain_frame s c outcome
    rw [hframe]
    exact hslots i hc

/-- What stage five leaves of the fired slot, by whether it completes (R46, R47). -/
theorem afterPlace_completes (hd : DueHead s e rest) (hm : ListMatchesSlots s) (hk : Skips s e n)
    (h : Completes (s.slot e.slot) n) :
    (s.afterPlace e rest).slot e.slot = completedRecord (s.slot e.slot) n ∧ (s.afterPlace e rest).plist = rest := by
  rw [afterPlace_eq hd hm hk (fun _ => ⟨rfl, rfl⟩) fun hn => absurd h hn]
  exact ⟨State.setSlot_slot_self s _ _, rfl⟩

theorem afterPlace_rearms (hd : DueHead s e rest) (hm : ListMatchesSlots s) (hk : Skips s e n)
    (h : ¬ Completes (s.slot e.slot) n) :
    (s.afterPlace e rest).slot e.slot = placedRecord (rearmedRecord (s.slot e.slot) n) (flagOf s e.slot) s.now
      ∧ (s.afterPlace e rest).plist = placedList s rest e.slot (laterDue (s.slot e.slot) n) (flagOf s e.slot) := by
  rw [afterPlace_eq hd hm hk (fun hc => absurd hc h) fun _ => ⟨rfl, rfl⟩]
  exact ⟨State.setSlot_slot_self s _ _, rfl⟩

/-- An occurrence dropped at stage three asks for no target (R48). -/
theorem appliedOf_dropped_iff : (s.appliedOf e).outcome = .dropped ↔ Dropped s e :=
  applied_dropped_iff.trans fireCopy_drops_iff

theorem target_of_dropped (h : Dropped s e) : (s.fireCopy e).target (s.appliedOf e).outcome = none :=
  target_none (.inl (appliedOf_dropped_iff.2 h))

/-- Settles O32: a slot completes or is re-armed, in a whole fire and by stage five alone. -/
theorem firePlaces : Obligations.FirePlaces := by
  refine ⟨fun s e rest n hd hw hm hk => ⟨_, fire_whole hd hw, fun hc hself => ?_, fun hr => ?_⟩,
    fun s c a more n r hd hp hm hdesc hr hone hcounts => ?_⟩
  · obtain ⟨hslot, hlist⟩ := afterPlace_completes hd hm hk hc
    have hkept : (s.fired e rest).slot e.slot = completedRecord (s.slot e.slot) n := by
      rw [fired_slot, chain_slot_of_ne, hslot]
      rcases hself with hne | hdrop
      · unfold FireCopy.target
        split
        · nofun
        · exact hne
      · rw [target_of_dropped hdrop]
        nofun
    refine ⟨hkept, ?_, fun hnone => ?_⟩
    · obtain ⟨_, _, _, _, hf⟩ := fired_frame s e rest
      rw [listed_eq (fired_listMatches hd hm) (by rw [hf]), hkept]
      exact decide_eq_false (completedRecord_not_pending _ _)
    · rw [fired_plist, chain_none (target_none (.inr hnone)), hlist]
  · obtain ⟨hslot, hlist⟩ := afterPlace_rearms hd hm hk hr
    have hkept : (s.fired e rest).slot e.slot
        = placedRecord (rearmedRecord (s.slot e.slot) n) (flagOf s e.slot) s.now := by
      rw [fired_slot]
      by_cases htarget : (s.fireCopy e).target (s.appliedOf e).outcome = some e.slot
      · rw [chain_other htarget, hslot]
        rw [hslot, placedRecord_state]
        split <;> nofun
      · rw [chain_slot_of_ne htarget, hslot]
    refine ⟨hkept, fired_listed_placed hd hm hkept, fun hnone => ?_⟩
    rw [fired_plist, chain_none (target_none (.inr hnone)), hlist]
  · subst hr
    have hskip : Skipped c { s.slot c.slot with due := c.nominal } n := ⟨hdesc, rfl, hone, hcounts⟩
    have hskips : c.skips (s.leftAfterAccounting c) = n := hskip.skips
    rw [fire_oneStage hd hp, State.fireStage]
    dsimp only
    rw [hskips]
    refine ⟨fun hc => ?_, fun hc => ?_⟩
    · have hlast : c.completes (s.leftAfterAccounting c) = true := hskip.completes.2 hc
      rw [hlast, accountAndPlace_completes hskip hc]
      rfl
    · have hlast : c.completes (s.leftAfterAccounting c) = false :=
        Bool.eq_false_iff.2 fun h => hc (hskip.completes.1 h)
      rw [hlast, accountAndPlace_rearms (unplaced_not_listed hm (unplaced_of_not_placed hd rfl)) hskip hc]
      rfl

end Fired

end Sys2Proof.Machine
end

section
/-! The chain stage and the reports of a fire (02): a whole fire, and each stage alone. -/

namespace Sys2Proof.Machine

section Fired
variable {s : State} {e : Entry} {rest : List Entry} {n : Nat} {j : SlotId}

/-! ### The chain stage (R48, R49) -/

/-- Stage five keeps R27. -/
theorem afterPlace_listMatches (hd : DueHead s e rest) (hm : ListMatchesSlots s) : ListMatchesSlots (s.afterPlace e rest) := by
  have happly : (s.afterApply e rest).dispatcher = .firing (s.fireCopy e) (.place (s.appliedOf e)) := by rw [afterApply_eq]
  have hreach : FireReach (s.takeHead e rest) (s.afterPlace e rest) :=
    (fireStage_fireReach (s := s.takeHead e rest) rfl).trans (fireStage_fireReach happly)
  exact hreach.keeps (fun _ _ hc h => hc.listMatches h) (takeHead_listMatches hd hm)

/-- Stage five leaves every other slot. -/
theorem afterPlace_slot_of_ne (h : j ≠ e.slot) : (s.afterPlace e rest).slot j = s.slot j := by
  obtain ⟨_, _, hframe, hslots, -⟩ := afterPlace_frame s e rest
  rw [hframe]
  exact hslots j h

/-- The target is LOADED at the chain stage exactly as R48 and R49 count it. -/
theorem targetLoaded_iff (hd : DueHead s e rest) (hm : ListMatchesSlots s) (hk : Skips s e n) (j : SlotId) :
    ((s.afterPlace e rest).slot j).state = .loaded ↔ TargetLoaded s e j n := by
  by_cases hj : j = e.slot
  · subst hj
    by_cases hc : Completes (s.slot e.slot) n
    · rw [(afterPlace_completes hd hm hk hc).1, completedRecord_state]
      simp [TargetLoaded, hc]
    · rw [(afterPlace_rearms hd hm hk hc).1, placedRecord_state]
      refine iff_of_false (by split <;> nofun) ?_
      rintro (⟨h, -⟩ | ⟨-, h, -⟩)
      · exact h rfl
      · exact hc h
  · rw [afterPlace_slot_of_ne hj]
    refine ⟨fun h => .inl ⟨hj, h⟩, ?_⟩
    rintro (⟨-, h⟩ | ⟨h, -⟩)
    · exact h
    · exact absurd h hj

/-- A LOADED target has the group it had before the fire (R48, R79). -/
theorem flagOf_target (hd : DueHead s e rest) (hm : ListMatchesSlots s) (hk : Skips s e n) (h : TargetLoaded s e j n) :
    flagOf (s.afterPlace e rest) j = flagOf s j := by
  have hgroups : (s.afterPlace e rest).groups = s.groups := by
    obtain ⟨_, _, hframe, -⟩ := afterPlace_frame s e rest
    rw [hframe]
  have hdesc : ((s.afterPlace e rest).slot j).desc = (s.slot j).desc := by
    rcases h with ⟨hj, -⟩ | ⟨rfl, hc, hauto⟩
    · rw [afterPlace_slot_of_ne hj]
    · rw [(afterPlace_completes hd hm hk hc).1, completedRecord, if_neg (Bool.eq_false_iff.1 hauto)]
  rw [flagOf, flagOf, hdesc, State.group, hgroups]
  rfl

/-- What an armed target comes to (R48). -/
theorem fired_arms {due : Tick} (hd : DueHead s e rest) (hm : ListMatchesSlots s) (hk : Skips s e n)
    (hchain : (s.slot e.slot).desc.chain = some j)
    (hdue : due = (s.slot e.slot).due + (s.slot e.slot).desc.chainOffset.setWidth 32)
    (hdrop : ¬ Dropped s e) (hl : TargetLoaded s e j n) :
    (s.fired e rest).slot j
        = placedRecord (freshRun ((s.afterPlace e rest).slot j) due) (flagOf s j) s.now
      ∧ (s.fired e rest).plist
        = placedList (s.afterPlace e rest) (s.afterPlace e rest).plist j due (flagOf s j) := by
  subst hdue
  have htarget : (s.fireCopy e).target (s.appliedOf e).outcome = some j :=
    target_some (fun h => hdrop (appliedOf_dropped_iff.1 h)) hchain
  rw [fired_slot, fired_plist, chain_arms (afterPlace_listMatches hd hm) htarget ((targetLoaded_iff hd hm hk j).2 hl),
    flagOf_target hd hm hk hl]
  exact ⟨State.setSlot_slot_self _ _ _, rfl⟩

/-- Where nothing is armed, stage five has the last word (R48, R49). -/
theorem fired_arms_none (hd : DueHead s e rest) (hm : ListMatchesSlots s) (hk : Skips s e n)
    (hchain : (s.slot e.slot).desc.chain = some j) (h : Dropped s e ∨ ¬ TargetLoaded s e j n) :
    (s.afterPlace e rest).chain (s.fireCopy e) (s.appliedOf e).outcome = s.afterPlace e rest := by
  by_cases hdrop : Dropped s e
  · exact chain_none (target_of_dropped hdrop)
  · exact chain_other (target_some (fun h => hdrop (appliedOf_dropped_iff.1 h)) hchain)
      fun hl => h.resolve_left hdrop ((targetLoaded_iff hd hm hk j).1 hl)

/-- A new record of a slot without entries leaves where others are inserted. -/
theorem placedList_setSlot {list : List Entry} {i : SlotId} (hn : ∀ x ∈ list, x.slot ≠ i) (r : Slot) (k : SlotId) (due : Tick)
    (flag : Bool) : placedList (s.setSlot i r) list k due flag = placedList s list k due flag := by
  unfold placedList
  rw [State.setSlot_now, insertEntry_congr fun x hx => setSlot_entryDist s r s.now (hn x hx)]

/-- Settles O34: the target by whether it is LOADED after stage five, and the stage alone. -/
theorem fireChains : Obligations.FireChains := by
  refine ⟨fun s e rest n j due r5 base list5 hd hw hm hk hchain hdue hc hr hbase => ⟨_, fire_whole hd hw, ?_⟩,
    fun s c a last skips more hd hp hm => ⟨fun h => ?_, fun j due ha hchain hdue => ⟨fun h => ?_, fun h => ?_⟩⟩⟩
  · have hplace := afterPlace_eq hd hm hk hc hr
    have hslots : (s.afterPlace e rest).slot j = base := by
      rw [hbase, hplace]
      refine (State.setSlot_slot s e.slot j r5).trans ?_
      by_cases hj : j = e.slot
      · rw [if_pos hj, if_pos hj.symm]
      · rw [if_neg hj, if_neg fun h => hj h.symm]
    have hlist : (s.afterPlace e rest).plist = list5 := by rw [hplace]
    have hdist (flag : Bool) : placedList (s.afterPlace e rest) (s.afterPlace e rest).plist j due flag
        = placedList { s with slots := s.slots.set e.slot r5 } list5 j due flag := by
      rw [hplace]
      rfl
    have arms (hdrop : ¬ Dropped s e) (hl : TargetLoaded s e j n) :
        (s.fired e rest).slot j = placedRecord (freshRun base due) (flagOf s j) s.now
          ∧ (s.fired e rest).plist
            = placedList { s with slots := s.slots.set e.slot r5 } list5 j due (flagOf s j) := by
      rw [← hslots, ← hdist]
      exact fired_arms hd hm hk hchain hdue hdrop hl
    have rests (h : Dropped s e ∨ ¬ TargetLoaded s e j n) : (s.fired e rest).slot j = base ∧ (s.fired e rest).plist = list5 := by
      rw [fired_slot, fired_plist, fired_arms_none hd hm hk hchain h]
      exact ⟨hslots, hlist⟩
    refine ⟨fun hj hdrop hl => ?_, fun hj h => ?_, fun hj hdrop hcomp hauto => ?_, fun hj hcomp hauto => ?_, arms, rests⟩
    · have hslot := (arms hdrop (.inl ⟨hj, hl⟩)).1
      rw [hbase, if_neg hj] at hslot
      exact ⟨hslot, fired_listed_placed hd hm hslot⟩
    · have hslot := (rests (h.imp_right fun hn hl => ?_)).1
      · rw [hslot, hbase, if_neg hj]
      · rcases hl with ⟨-, hl⟩ | ⟨he, -⟩
        · exact hn hl
        · exact hj he
    · obtain ⟨h5, hl5⟩ := hc hcomp
      obtain ⟨hslot, hplist⟩ := arms hdrop (.inr ⟨hj, hcomp, hauto⟩)
      subst hj
      rw [hbase, if_pos rfl, h5] at hslot
      rw [hl5] at hplist
      exact ⟨hslot, hplist.trans (placedList_setSlot (head_not_behind hd hm) r5 e.slot due _)⟩
    · obtain ⟨h5, hl5⟩ := hc hcomp
      have hnot : ¬ TargetLoaded s e j n := by
        rintro (⟨h, -⟩ | ⟨-, -, h⟩)
        · exact h hj
        · exact absurd (hauto.symm.trans h) nofun
      obtain ⟨hslot, hplist⟩ := rests (.inr hnot)
      rw [hbase, if_pos hj, h5, completedRecord, if_pos hauto] at hslot
      exact ⟨hj ▸ hslot, hplist.trans hl5⟩
  · rw [fire_oneStage hd hp, State.fireStage, chain_none (target_none h), chainMissed_none (target_none h)]
    rfl
  · subst hdue
    rw [fire_oneStage hd hp, State.fireStage, chain_arms hm (target_some ha hchain) h,
      chainMissed_loaded (target_some ha hchain) h]
    rfl
  · rw [fire_oneStage hd hp, State.fireStage, chain_other (target_some ha hchain) h,
      chainMissed_other (target_some ha hchain) h]
    rfl

/-! ### The reports (R50, R51, R65) -/

/-- The lateness of a due head, as a number and as the word that FIRE carries (R39, R50). -/
theorem lateness_toInt (hd : DueHead s e rest) : ((s.fireCopy e).lam : Int) = -(s.entryDist s.now e) := by
  show ((-(s.entryDist s.now e)).toNat : Int) = _
  have := hd.2.2.2
  omega

theorem lateness_lt (s : State) (e : Entry) : (s.fireCopy e).lam < 4294967296 := by
  show (-(s.entryDist s.now e)).toNat < _
  have hbound : -2147483648 ≤ s.entryDist s.now e := by
    unfold State.entryDist
    split
    · exact Int.le_refl _
    · exact (signedDistance_bounds _ _).1
  omega

/-- The PATTERN_EMPTY of a fire is of the slot's own line (R65). -/
theorem emptied_cases (s : State) (c : FireCopy) :
    s.emptied c = [] ∨ ∃ l, c.desc.line = some l ∧ s.emptied c = [⟨s.now, .patternEmpty l⟩] := by
  unfold State.emptied Descriptor.actsOn
  split
  · exact .inl rfl
  · split
    · exact .inl rfl
    · next l hl =>
      split at hl
      · exact nomatch hl
      · split
        · exact .inr ⟨l, hl, rfl⟩
        · exact .inl rfl

/-- Only a SHIFT of the last bit of a NORMAL line leaves its patterns empty (R65). -/
theorem act_patternEmpty_iff (l : Line) (action : Action) (slot : SlotId) (width : BitVec 16) (tick : Tick) :
    (l.act action slot width tick).patternEmpty = true
      ↔ action = .shift ∧ l.mode = .normal ∧ l.current.count = 1 ∧ l.next = none := by
  by_cases hm : l.mode = .normal
  · cases action with
    | shift =>
      by_cases h : l.current.count = 0
      · simp only [Line.act, hm, Line.shift, if_pos h]
        refine iff_of_false nofun ?_
        rintro ⟨-, -, h1, -⟩
        exact absurd (h.symm.trans h1) nofun
      · rw [act_shift_bit hm h, Bool.and_eq_true, decide_eq_true_eq, Option.isNone_iff_eq_none]
        exact ⟨fun ⟨h1, hn⟩ => ⟨rfl, hm, h1, hn⟩, fun ⟨_, _, h1, hn⟩ => ⟨h1, hn⟩⟩
    | _ =>
      simp only [Line.act, hm]
      exact iff_of_false nofun nofun
  · rw [Line.act_blocked hm]
    exact iff_of_false nofun fun h => hm h.2.1

theorem emptied_ne_nil_iff {l : LineId} (hl : (s.slot e.slot).desc.line = some l) :
    s.emptied (s.fireCopy e) ≠ [] ↔ ¬ Dropped s e ∧ (s.slot e.slot).desc.action = .shift ∧ (s.line l).mode = .normal
      ∧ (s.line l).current.count = 1 ∧ (s.line l).next = none := by
  have hact := act_patternEmpty_iff (s.line l) (s.slot e.slot).desc.action e.slot (s.slot e.slot).desc.width s.now
  unfold State.emptied
  by_cases hdrop : (s.fireCopy e).desc.drops (s.fireCopy e).lam = true
  · rw [if_pos hdrop]
    exact iff_of_false (fun h => h rfl) fun h => h.1 (fireCopy_drops_iff.1 hdrop)
  · rw [if_neg hdrop, and_iff_right (mt fireCopy_drops_iff.2 hdrop), ← hact]
    by_cases hn : (s.slot e.slot).desc.action = .notify
    · have hnone : (s.fireCopy e).desc.actsOn = none := actsOn_none (.inl hn)
      rw [hnone, hact, hn]
      exact iff_of_false (fun h => h rfl) nofun
    · have hsome : (s.fireCopy e).desc.actsOn = some l := actsOn_line hn hl
      rw [hsome]
      dsimp only
      split
      · next h => exact iff_of_true nofun h
      · next h => exact iff_of_false (fun h => h rfl) h

/-- Whether the notify field calls for FIRE (R50). -/
theorem fires_none {c : FireCopy} {a : Applied} {last : Bool} {skips : Nat}
    (h : c.desc.notify = .none ∨ c.desc.notify = .last ∧ last = false) : c.fires a last skips = [] := by
  rcases h with h | ⟨h, rfl⟩ <;> rw [FireCopy.fires, h] <;> rfl

theorem fires_one {c : FireCopy} {a : Applied} {last : Bool} {skips : Nat}
    (h : c.desc.notify = .each ∨ c.desc.notify = .last ∧ last = true) :
    c.fires a last skips = [⟨c.stamp, .fire (c.report a last skips)⟩] := by
  rcases h with h | ⟨h, rfl⟩ <;> rw [FireCopy.fires, h] <;> rfl

/-- What the outcome and the preempted slot of a FIRE say of the answer (R50). -/
theorem appliedOf_answer {l : LineId} {answer : LineAnswer} (hdrop : ¬ Dropped s e)
    (ha : (s.slot e.slot).desc.action ≠ .notify) (hl : (s.slot e.slot).desc.line = some l)
    (h : ((s.line l).act (s.slot e.slot).desc.action e.slot (s.slot e.slot).desc.width s.now).answer = answer) :
    s.appliedOf e = ⟨answer.outcome, answer.preemptedSlot⟩ := by
  subst h
  exact applied_line (fun hd => hdrop (fireCopy_drops_iff.1 hd)) (actsOn_line ha hl)

/-- Only a preemption names a slot (R41). -/
theorem applied_preempted_none {c : FireCopy} (h : (s.applied c).outcome ≠ .preempt) : (s.applied c).preempted = none := by
  unfold State.applied at h ⊢
  split at h
  · next hd => rw [if_pos hd]
  · next hd =>
    rw [if_neg hd]
    cases hl : c.desc.actsOn with
    | none => rfl
    | some l =>
      rw [hl] at h
      dsimp only at h ⊢
      cases hx : (s.handOver c l).answer with
      | preempted p => rw [hx] at h; exact absurd rfl h
      | _ => rfl

/-- The fields of a FIRE notification (R50). -/
theorem report_late (hd : DueHead s e rest) (a : Applied) (last : Bool) (skips : Nat) :
    ((s.fireCopy e).report a last skips).late = true ↔ s.entryDist s.now e < 0 := by
  have := lateness_toInt hd
  rw [FireCopy.report, decide_eq_true_eq]
  omega

theorem report_skips (c : FireCopy) (a : Applied) (last : Bool) (skips : Nat) :
    (c.report a last skips).skips.toNat = min skips 65535 := by
  rw [FireCopy.report, BitVec.toNat_ofNat]
  omega

theorem report_aux_late (hd : DueHead s e rest) {a : Applied} (h : a.preempted = none) (last : Bool) (skips : Nat) :
    (((s.fireCopy e).report a last skips).aux.toNat : Int) = -(s.entryDist s.now e) := by
  have hlt := lateness_lt s e
  have haux : ((s.fireCopy e).report a last skips).aux = BitVec.ofNat 32 (s.fireCopy e).lam := by
    simp only [FireCopy.report, h]
  rw [haux, BitVec.toNat_ofNat, Nat.mod_eq_of_lt hlt, lateness_toInt hd]

theorem report_aux_preempted {c : FireCopy} {a : Applied} {p : SlotId} (h : a.preempted = some p) (last : Bool) (skips : Nat) :
    (c.report a last skips).aux.toNat = p.val := by
  have haux : (c.report a last skips).aux = BitVec.ofNat 32 p.val := by simp only [FireCopy.report, h]
  have := p.isLt
  rw [haux, BitVec.toNat_ofNat]
  omega

/-- The target that a whole fire misses (R49, R51). -/
theorem misses_none (hd : DueHead s e rest) (hm : ListMatchesSlots s) (hk : Skips s e n)
    (h : (s.slot e.slot).desc.chain = none ∨ ∃ j, (s.slot e.slot).desc.chain = some j ∧ (Dropped s e ∨ TargetLoaded s e j n)) :
    (s.afterPlace e rest).chainMissed (s.fireCopy e) (s.appliedOf e).outcome = none := by
  rcases h with h | ⟨j, hj, h⟩
  · exact chainMissed_none (target_none (.inr h))
  · by_cases hdrop : Dropped s e
    · exact chainMissed_none (target_of_dropped hdrop)
    · exact chainMissed_loaded (target_some (fun h => hdrop (appliedOf_dropped_iff.1 h)) hj)
        ((targetLoaded_iff hd hm hk j).2 (h.resolve_left hdrop))

theorem misses_some (hd : DueHead s e rest) (hm : ListMatchesSlots s) (hk : Skips s e n)
    (hj : (s.slot e.slot).desc.chain = some j) (hdrop : ¬ Dropped s e) (h : ¬ TargetLoaded s e j n) :
    (s.afterPlace e rest).chainMissed (s.fireCopy e) (s.appliedOf e).outcome = some j :=
  chainMissed_other (target_some (fun h => hdrop (appliedOf_dropped_iff.1 h)) hj)
    fun hl => h ((targetLoaded_iff hd hm hk j).1 hl)

/-- Settles O35: the three kinds of post of a whole fire, and the two stages that post alone. -/
theorem fireReports : Obligations.FireReports := by
  refine ⟨fun s e rest n hd hw hm hk => ⟨_, s.emptied (s.fireCopy e),
    (s.fireCopy e).fires (s.appliedOf e) (s.completesOf e) (s.skipsOf e),
    (s.fireCopy e).misses ((s.afterPlace e rest).chainMissed (s.fireCopy e) (s.appliedOf e).outcome), fire_whole hd hw, ?_,
    emptied_cases s (s.fireCopy e), fun l hl => emptied_ne_nil_iff hl, fun h => fires_none (.inl h), fun h hc => ?_,
    fun h => ?_, fun h => ?_, fun j hj => ⟨fun h => ?_, fun hdrop hl => ?_⟩⟩,
    fun s c a last skips missed more r d hd hp hnone hsome hr => ?_, fun s c j more hd hp => ?_⟩
  · rw [fired_eq, List.append_assoc]
  · exact fires_none (.inr ⟨h, Bool.eq_false_iff.2 fun hl => hc ((completesOf_iff hk).1 hl)⟩)
  · refine ⟨_, fires_one (h.imp_right fun ⟨hl, hc⟩ => ⟨hl, (completesOf_iff hk).2 hc⟩), rfl, rfl, report_late hd _ _ _,
      completesOf_iff hk, ?_, appliedOf_dropped_iff, fun ho => report_aux_late hd (applied_preempted_none ho) _ _,
      fun hdrop hn => ?_, fun l answer hdrop hn hl ha => ?_⟩
    · rw [report_skips, skipsOf_eq hk]
    · show (s.appliedOf e).outcome = .done
      rw [State.appliedOf, applied_noLine (fun hd => hdrop (fireCopy_drops_iff.1 hd)) (actsOn_none (.inl hn))]
    · have happlied := appliedOf_answer hdrop hn hl ha
      obtain ⟨hdone, hunder, hblocked, hpre⟩ := answer_applied happlied
      exact ⟨fun h => congrArg Applied.outcome (hdone h), fun h => congrArg Applied.outcome (hunder h),
        fun h => congrArg Applied.outcome (hblocked h), fun p h => ⟨congrArg Applied.outcome (hpre p h),
          report_aux_preempted (congrArg Applied.preempted (hpre p h)) _ _⟩⟩
  · rw [misses_none hd hm hk (.inl h)]
    rfl
  · rw [misses_none hd hm hk (.inr ⟨j, hj, h⟩)]
    rfl
  · rw [misses_some hd hm hk hj hdrop hl]
    rfl
  · have hr : c.report a last skips = r := by
      rw [hr, FireCopy.report]
      congr 1
      exact decide_eq_decide.2 Nat.pos_iff_ne_zero
    have hstage : s.fireStage c (.notify a last skips missed)
        = { s with queue := queueAfterAll s.now s.queue (c.fires a last skips), dispatcher := d } := by
      rw [notifyStage_eq]
      cases missed with
      | none => rw [hnone rfl]
      | some j => rw [hsome j rfl]
    rw [fire_oneStage hd hp, hstage]
    refine ⟨fun h => ?_, fun h => ?_⟩
    · rw [fires_none h]
      rfl
    · rw [fires_one h, hr]
      rfl
  · rw [fire_oneStage hd hp, missStage_eq]
    rfl

end Fired

end Sys2Proof.Machine
end

section
/-! The Capture Unit (07): accepted edges with their trigger arms, changes of an input, acceptances and channel commits. -/

namespace Sys2Proof.Machine

section Captures
variable {s : State} {k : ChannelId} {level : Bool} {stamp : Tick}

/-! ### Trigger arms beside other changes (R122, R124) -/

/-- The last of two records written to a channel stands. -/
theorem setChannel_setChannel (s : State) (k : ChannelId) (c d : Channel) :
    (s.setChannel k c).setChannel k d = s.setChannel k d := by
  have h : (s.capture.channels.set k c).set k d = s.capture.channels.set k d := Vector.set_set ..
  simp only [State.setChannel, State.withCapture, h]

/-- A trigger arm does not look at the window or the port. -/
theorem triggerArm_withWindow (s : State) (k : ChannelId) (a : TriggerArm) (x : Window) :
    (s.withWindow x).triggerArm k a = (s.triggerArm k a).withWindow x := by
  refine (triggerArm_beside s (s.withWindow x) k a).trans ?_
  obtain ⟨_, _, _, _, _, h⟩ := triggerArm_frame s k a
  rw [h]
  rfl

theorem triggerArm_withPort (s : State) (k : ChannelId) (a : TriggerArm) (x : Port) :
    (s.withPort x).triggerArm k a = (s.triggerArm k a).withPort x := by
  refine (triggerArm_beside s (s.withPort x) k a).trans ?_
  obtain ⟨_, _, _, _, _, h⟩ := triggerArm_frame s k a
  rw [h]
  rfl

theorem takeArm_withWindow (s : State) (k : ChannelId) (x : Window) :
    (s.withWindow x).takeArm k = (s.takeArm k).withWindow x := by
  unfold State.takeArm
  rw [State.withWindow_channel]
  cases (s.channel k).arm with
  | none => rfl
  | some a => exact triggerArm_withWindow (s.setChannel k { s.channel k with arm := none }) k a x

theorem takeArm_advance (s : State) (k : ChannelId) : s.advance.takeArm k = (s.takeArm k).advance := by
  obtain ⟨_, _, _, _, _, _, h⟩ := takeArm_frame s k
  have hport : (s.takeArm k).port = s.port := by rw [h]
  rw [State.advance, State.advance, hport]
  unfold State.takeArm
  rw [State.withPort_channel]
  cases (s.channel k).arm with
  | none => rfl
  | some a => exact triggerArm_withPort (s.setChannel k { s.channel k with arm := none }) k a _

/-- A channel's trigger arm and a new record of the channel that keeps what it has to ask for (R122). -/
theorem takeArm_setChannel {c : Channel} (h : c.arm = (s.channel k).arm) :
    (s.setChannel k c).takeArm k = (s.takeArm k).setChannel k { c with arm := none } := by
  unfold State.takeArm
  rw [State.setChannel_channel_self, h]
  cases harm : (s.channel k).arm with
  | none =>
    dsimp only
    congr 1
    rw [← harm, ← h]
  | some a =>
    dsimp only
    rw [setChannel_setChannel, ← setChannel_setChannel s k { s.channel k with arm := none }]
    generalize s.setChannel k { s.channel k with arm := none } = v
    refine (triggerArm_beside v (v.setChannel k { c with arm := none }) k a).trans ?_
    obtain ⟨_, _, _, _, _, h⟩ := triggerArm_frame v k a
    rw [h]
    rfl

/-- After its trigger arm a channel has none to come. -/
theorem takeArm_arm (s : State) (k : ChannelId) : ((s.takeArm k).channel k).arm = none := by
  rw [takeArm_channel, if_pos rfl]

/-! ### An accepted edge (R117, R118, R122 to R124) -/

/-- An accepted edge makes the trigger arm of the edge before it first (R122). -/
theorem acceptEdge_takeArm (s : State) (k : ChannelId) (level : Bool) (stamp : Tick) :
    s.acceptEdge k level stamp = (s.takeArm k).acceptEdge k level stamp := by
  unfold State.acceptEdge
  rw [takeArm_none (takeArm_arm s k)]

/-- An accepted edge of a channel with no trigger arm to come. -/
theorem acceptEdge_eq (h : (s.channel k).arm = none) : s.acceptEdge k level stamp
    = (s.setChannel k { s.channel k with filter := .stable level }).handleEdge k (edgeTo level) stamp := by
  rw [State.acceptEdge, takeArm_none h]

/-- The filter that an accepted edge finds is no matter. -/
theorem acceptEdge_setFilter {c : Channel} (h : c.arm = none) (f : Filter) :
    (s.setChannel k { c with filter := f }).acceptEdge k level stamp = (s.setChannel k c).acceptEdge k level stamp := by
  rw [acceptEdge_eq (s := s.setChannel k { c with filter := f }) (by rw [State.setChannel_channel_self]; exact h),
    acceptEdge_eq (s := s.setChannel k c) (by rw [State.setChannel_channel_self]; exact h),
    State.setChannel_channel_self, State.setChannel_channel_self, setChannel_setChannel, setChannel_setChannel]

/-- An edge that does not match is not recorded (R122). -/
theorem handleEdge_unmatched (h : ¬ Matches (s.channel k) level) : s.handleEdge k (edgeTo level) stamp = s :=
  if_neg fun hm => h ((matches_iff _ _).1 hm)

/-- A matching edge of a channel without a trigger slot is recorded alone (R123). -/
theorem handleEdge_recorded (h : Matches (s.channel k) level) (ht : (s.channel k).trigger = none) :
    s.handleEdge k (edgeTo level) stamp = s.offerRecord (edgeRecord k level stamp) := by
  rw [State.handleEdge, if_pos ((matches_iff _ _).2 h), Channel.armFor, ht]
  rfl

/-- The trigger arm that an accepted edge asks for (R124). -/
def Channel.armOf (c : Channel) (i : SlotId) (stamp : Tick) : TriggerArm := ⟨i, stamp + c.offset.setWidth 32⟩

/-- A recorded edge whose trigger arm is still to be asked for (R122). -/
def State.edgeAsked (s : State) (k : ChannelId) (level : Bool) (stamp : Tick) (i : SlotId) : State :=
  let recorded := s.offerRecord (edgeRecord k level stamp)
  (recorded.setChannel k { s.channel k with arm := some ((s.channel k).armOf i stamp) }).withPauses s.pauses.tail

/-- Recording an edge leaves the channels and the pauses. -/
theorem offerRecord_channel (s : State) (r : CaptureRecord) (j : ChannelId) : (s.offerRecord r).channel j = s.channel j := by
  rw [offerRecord_eq]
  rfl

/-- The world lets others in at once exactly where the front of `pauses` is 0 (log 24). -/
theorem further_eq_zero_iff (s : State) : s.further = 0 ↔ s.pauses.head? = some 0 := by
  rw [State.further]
  cases s.pauses with
  | nil => exact iff_of_false nofun nofun
  | cons n more =>
    rw [List.headD_cons, List.head?_cons]
    exact ⟨congrArg some, Option.some.inj⟩

/-- A matching edge of a channel with a trigger slot, by whether others are let in before the arm (R122, R124). -/
theorem handleEdge_triggers (h : Matches (s.channel k) level) {i : SlotId} (ht : (s.channel k).trigger = some i) :
    s.handleEdge k (edgeTo level) stamp
      = if s.pauses.head? = some 0 then s.edgeAsked k level stamp i else (s.edgeAsked k level stamp i).takeArm k := by
  have hpauses : (s.offerRecord (edgeRecord k level stamp)).pauses = s.pauses := by rw [offerRecord_eq]
  have hasked : (((s.offerRecord (edgeRecord k level stamp)).setChannel k
      { (s.offerRecord (edgeRecord k level stamp)).channel k with
        arm := some ((s.channel k).armOf i stamp) }).pauseTaken) = s.edgeAsked k level stamp i := by
    rw [State.pauseTaken, offerRecord_channel, State.setChannel_pauses, hpauses]
    rfl
  rw [State.handleEdge, if_pos ((matches_iff _ _).2 h), Channel.armFor, ht, ← hasked]
  simp only [← further_eq_zero_iff]
  rfl

/-- The trigger arm of an edge just asked for (R124). -/
theorem edgeAsked_takeArm (h : (s.channel k).arm = none) (i : SlotId) : (s.edgeAsked k level stamp i).takeArm k
    = ((s.offerRecord (edgeRecord k level stamp)).withPauses s.pauses.tail).triggerArm k ((s.channel k).armOf i stamp) := by
  have hasked : s.edgeAsked k level stamp i
      = ((s.offerRecord (edgeRecord k level stamp)).withPauses s.pauses.tail).setChannel k
        { s.channel k with arm := some ((s.channel k).armOf i stamp) } := rfl
  have hsame : ((s.offerRecord (edgeRecord k level stamp)).withPauses s.pauses.tail).setChannel k
      { s.channel k with arm := none } = (s.offerRecord (edgeRecord k level stamp)).withPauses s.pauses.tail := by
    rw [← h, ← offerRecord_channel s (edgeRecord k level stamp)]
    exact setChannel_same ((s.offerRecord (edgeRecord k level stamp)).withPauses s.pauses.tail) k
  rw [State.takeArm, hasked, State.setChannel_channel_self]
  dsimp only
  rw [setChannel_setChannel, hsame]

/-- What a trigger arm posts and does, in one (R124). -/
theorem triggerArm_armed (hm : ListMatchesSlots s) {a : TriggerArm} (hf : NotFired s a.slot) :
    s.triggerArm k a = { s with
        slots := (s.triggerArm k a).slots, plist := (s.triggerArm k a).plist
        queue := queueAfterAll s.now s.queue (triggerPosts s k a.slot) }
      ∧ TriggerArmed s (s.triggerArm k a) a.slot a.due := by
  rw [triggerArm_eq hm k hf, triggerPosts]
  by_cases hl : (s.slot a.slot).state = .loaded
  · rw [if_pos hl, if_pos hl]
    exact ⟨rfl, fun _ => ⟨rfl, rfl⟩, fun h => absurd hl h⟩
  · rw [if_neg hl, if_neg hl]
    exact ⟨rfl, fun h => absurd h hl, fun _ => ⟨rfl, rfl⟩⟩

/-- An edge whose filter has settled is handled as R122 to R124 say. -/
theorem handleEdge_handled (hfilter : (s.channel k).filter = .stable level) (harm : (s.channel k).arm = none)
    (hm : ListMatchesSlots s) (hf : TriggerFree s k) :
    EdgeHandled s (s.handleEdge k (edgeTo level) stamp) k level stamp := by
  have hsame : s.channel k = { s.channel k with filter := .stable level, arm := (s.channel k).arm } := by rw [← hfilter]
  by_cases hmt : Matches (s.channel k) level
  · cases ht : (s.channel k).trigger with
    | none =>
      rw [handleEdge_recorded hmt ht, offerRecord_eq]
      exact ⟨rfl, rfl, hsame, fun _ _ => rfl, fun h => absurd hmt h, fun _ => ⟨rfl, fun _ => ⟨rfl, rfl, rfl, rfl, harm⟩,
        fun i due hi => absurd (ht.symm.trans hi) nofun⟩⟩
    | some i =>
      rw [handleEdge_triggers hmt ht]
      by_cases hp : s.pauses.head? = some 0
      · have hself : (s.edgeAsked k level stamp i).channel k
            = { s.channel k with arm := some ((s.channel k).armOf i stamp) } := State.setChannel_channel_self _ _ _
        have hother (j : ChannelId) (hj : j ≠ k) : (s.edgeAsked k level stamp i).channel j = s.channel j :=
          (State.setChannel_channel_of_ne _ (fun h => hj h.symm) _).trans (offerRecord_channel _ _ _)
        rw [if_pos hp]
        refine ⟨?_, ?_, ?_, hother, fun h => absurd hmt h, fun _ => ⟨?_, fun h => absurd (h.symm.trans ht) nofun,
          fun i' due hi hdue => ⟨rfl, fun _ => ?_, fun h => absurd hp h⟩⟩⟩
        · rw [State.edgeAsked, offerRecord_eq]
          rfl
        · rw [State.edgeAsked, offerRecord_eq]
          rfl
        · rw [hself, ← hfilter]
        · rw [State.edgeAsked, offerRecord_eq]
          rfl
        · cases ht.symm.trans hi
          rw [hdue, hself, State.edgeAsked, offerRecord_eq]
          exact ⟨rfl, rfl, rfl, rfl⟩
      · rw [if_neg hp, edgeAsked_takeArm harm]
        obtain ⟨v, hv⟩ : ∃ v, v = (s.offerRecord (edgeRecord k level stamp)).withPauses s.pauses.tail := ⟨_, rfl⟩
        rw [← hv]
        rw [offerRecord_eq] at hv
        have hfree : NotFired v ((s.channel k).armOf i stamp).slot := by rw [hv]; exact hf i ht hp
        obtain ⟨htrigger, harmed⟩ := triggerArm_armed (k := k) (show ListMatchesSlots v by rw [hv]; exact hm) hfree
        generalize v.triggerArm k ((s.channel k).armOf i stamp) = t at htrigger harmed
        subst hv
        have hchannel (j : ChannelId) : t.channel j = s.channel j := by rw [htrigger]; rfl
        refine ⟨?_, ?_, ?_, fun j _ => hchannel j, fun h => absurd hmt h, fun _ => ⟨?_,
          fun h => absurd (h.symm.trans ht) nofun, fun i' due hi hdue => ⟨?_, fun h => absurd h hp, fun _ _ => ?_⟩⟩⟩
        · rw [htrigger]
          rfl
        · rw [htrigger]
          rfl
        · rw [hchannel]
          exact hsame
        · rw [htrigger]
          rfl
        · rw [htrigger]
          rfl
        · cases ht.symm.trans hi
          refine ⟨?_, hdue ▸ harmed, (congrArg Channel.arm (hchannel k)).trans harm⟩
          rw [queueAfterAll_append]
          exact congrArg State.queue htrigger
  · rw [handleEdge_unmatched hmt]
    exact ⟨rfl, rfl, hsame, fun _ _ => rfl, fun _ => ⟨rfl, rfl, rfl, rfl, rfl, harm⟩, fun h => absurd h hmt⟩

/-- What the filter was before does not matter to an edge handled. -/
theorem EdgeHandled.ofFilter {t : State} {f : Filter}
    (h : EdgeHandled (s.setChannel k { s.channel k with filter := f }) t k level stamp) : EdgeHandled s t k level stamp := by
  have hself : (s.setChannel k { s.channel k with filter := f }).channel k = { s.channel k with filter := f } :=
    State.setChannel_channel_self _ _ _
  obtain ⟨hstate, hcapture, hchannel, hother, hno, hyes⟩ := h
  rw [hself] at hchannel hno hyes
  exact ⟨hstate, hcapture, hchannel,
    fun j hj => (hother j hj).trans (State.setChannel_channel_of_ne s (fun h => hj h.symm) _), hno, hyes⟩

/-- An accepted edge is handled as R122 to R124 say. -/
theorem acceptEdge_handled (harm : (s.channel k).arm = none) (hm : ListMatchesSlots s) (hf : TriggerFree s k) :
    EdgeHandled s (s.acceptEdge k level stamp) k level stamp := by
  have hself : (s.setChannel k { s.channel k with filter := .stable level }).channel k
      = { s.channel k with filter := .stable level } := State.setChannel_channel_self _ _ _
  rw [acceptEdge_eq harm]
  refine EdgeHandled.ofFilter (f := .stable level) (handleEdge_handled ?_ ?_ hm fun i hi hp => ?_)
  · rw [hself]
  · rw [hself]
    exact harm
  · rw [hself] at hi
    exact hf i hi hp

end Captures

end Sys2Proof.Machine
end

section
/-! The rows of the Capture Unit (07): changes of an input, acceptances and channel configuration commits. -/

namespace Sys2Proof.Machine

section CaptureRows
variable {s : State} {k : ChannelId} {level : Bool} {stamp : Tick}

/-! ### Where others fall between an edge and its trigger arm (R122, log 24) -/

/-- The edge asked for does not depend on how it was let wait. -/
theorem edgeAsked_withPauses (n : Nat) (i : SlotId) :
    (s.withPauses (n :: s.pauses.tail)).edgeAsked k level stamp i = s.edgeAsked k level stamp i := by
  rw [State.edgeAsked, State.edgeAsked, offerRecord_eq, offerRecord_eq]
  rfl

/-- An edge whose trigger arm would be left to come is followed by it where nothing is let in (R122). -/
theorem handleEdge_paused (harm : (s.channel k).arm = none) (hp : s.pauses.head? ≠ some 0)
    (h : (((s.withPauses (0 :: s.pauses.tail)).handleEdge k (edgeTo level) stamp).channel k).arm ≠ none) :
    s.handleEdge k (edgeTo level) stamp
      = ((s.withPauses (0 :: s.pauses.tail)).handleEdge k (edgeTo level) stamp).takeArm k := by
  by_cases hm : Matches (s.channel k) level
  · cases ht : (s.channel k).trigger with
    | none =>
      rw [handleEdge_recorded (s := s.withPauses (0 :: s.pauses.tail)) hm ht, offerRecord_channel] at h
      exact absurd harm h
    | some i =>
      rw [handleEdge_triggers hm ht, handleEdge_triggers (s := s.withPauses (0 :: s.pauses.tail)) hm ht, if_neg hp, if_pos (by rfl),
        edgeAsked_withPauses]
  · rw [handleEdge_unmatched (s := s.withPauses (0 :: s.pauses.tail)) hm] at h
    exact absurd harm h

theorem acceptEdge_paused (harm : (s.channel k).arm = none) (hp : s.pauses.head? ≠ some 0)
    (h : (((s.withPauses (0 :: s.pauses.tail)).acceptEdge k level stamp).channel k).arm ≠ none) :
    s.acceptEdge k level stamp = ((s.withPauses (0 :: s.pauses.tail)).acceptEdge k level stamp).takeArm k := by
  rw [acceptEdge_eq (s := s.withPauses (0 :: s.pauses.tail)) harm] at h ⊢
  rw [acceptEdge_eq harm]
  exact handleEdge_paused (s := s.setChannel k _) (by rw [State.setChannel_channel_self]; exact harm) hp h

/-! ### A change of an input (R117) -/

/-- When a filter works (R117). -/
theorem filterWorks_iff : s.filterWorks k = true ↔ s.timebase.running = true ∧ (s.channel k).edge ≠ .off := by
  rw [State.filterWorks, Bool.and_eq_true, bne_iff_ne]

theorem followInput_idle (h : ¬ s.filterWorks k = true) :
    s.followInput k level = s.setChannel k { s.channel k with filter := .stable level } := if_neg h

theorem followInput_qualifies {l : Bool} (h : s.filterWorks k = true) (hf : (s.channel k).filter = .stable l) (hl : level ≠ l)
    (h0 : (s.channel k).filterLength ≠ 0) :
    s.followInput k level = s.setChannel k { s.channel k with
      filter := .qualifying l s.now (s.now + (s.channel k).filterLength.setWidth 32) } := by
  simp only [State.followInput, if_pos h, hf, if_neg hl, if_neg h0]

theorem followInput_accepts {l : Bool} (h : s.filterWorks k = true) (hf : (s.channel k).filter = .stable l) (hl : level ≠ l)
    (h0 : (s.channel k).filterLength = 0) : s.followInput k level = s.acceptEdge k level s.now := by
  simp only [State.followInput, if_pos h, hf, if_neg hl, if_pos h0]

theorem followInput_stays {l : Bool} (h : s.filterWorks k = true) (hf : (s.channel k).filter = .stable l) (hl : level = l) :
    s.followInput k level = s := by
  simp only [State.followInput, if_pos h, hf, if_pos hl]

theorem followInput_returns {l : Bool} {a b : Tick} (h : s.filterWorks k = true) (hf : (s.channel k).filter = .qualifying l a b) :
    s.followInput k level = s.setChannel k { s.channel k with filter := .stable l } := by
  simp only [State.followInput, if_pos h, hf]

/-- A change of an input moves the filter or is accepted, whatever the pauses (R117). -/
theorem followInput_cases (s : State) (k : ChannelId) (level : Bool) :
    (∃ f, ∀ p, (s.withPauses p).followInput k level = (s.setChannel k { s.channel k with filter := f }).withPauses p)
      ∨ ∀ p, (s.withPauses p).followInput k level = (s.withPauses p).acceptEdge k level s.now := by
  by_cases hw : s.filterWorks k = true
  · cases hf : (s.channel k).filter with
    | stable l =>
      by_cases hl : level = l
      · refine .inl ⟨.stable l, fun p => ?_⟩
        rw [followInput_stays (s := s.withPauses p) hw hf hl, ← hf]
        exact congrArg (fun u => State.withPauses u p) (setChannel_same s k).symm
      · by_cases h0 : (s.channel k).filterLength = 0
        · exact .inr fun p => followInput_accepts (s := s.withPauses p) hw hf hl h0
        · exact .inl ⟨.qualifying l s.now (s.now + (s.channel k).filterLength.setWidth 32),
            fun p => followInput_qualifies (s := s.withPauses p) hw hf hl h0⟩
    | qualifying l a b => exact .inl ⟨_, fun p => followInput_returns (s := s.withPauses p) hw hf⟩
  · exact .inl ⟨_, fun p => followInput_idle (s := s.withPauses p) hw⟩

/-- Writing a filter leaves what the channel has to ask for. -/
theorem setFilter_arm (f : Filter) (p : List Nat) :
    (((s.setChannel k { s.channel k with filter := f }).withPauses p).channel k).arm = (s.channel k).arm :=
  (congrArg Channel.arm (State.setChannel_channel_self s k { s.channel k with filter := f })).trans rfl

/-- Settles O36: the filter's state, and the edge accepted at once with what comes before and after it. -/
theorem captureInputChanges : Obligations.CaptureInputChanges := by
  intro s k level changed hlevel hchanged
  have hexec : exec (.captureInputChange k) s = .next (changed.followInput k level) := by
    rw [hchanged, hlevel]
    rfl
  have hc : changed = s.withPins { s.pins with k := s.pins.k.set k level } := hchanged
  have hworks (hr : s.timebase.running = true) (he : (s.channel k).edge ≠ .off) : changed.filterWorks k = true := by
    rw [hc]
    exact filterWorks_iff.2 ⟨hr, he⟩
  have hchannel : changed.channel k = s.channel k := by rw [hc]; rfl
  have hne : level ≠ !level := by cases level <;> nofun
  refine ⟨fun h => ?_, fun hr he => ⟨fun hf h0 => ?_, fun hf h0 => ⟨fun harm hm ht => ?_, fun u harm hu => ?_⟩,
    fun l a b hf => ?_⟩, fun m harm hp hm hasked => ?_⟩
  · have hidle : ¬ changed.filterWorks k = true := by
      rw [hc]
      intro hw
      obtain ⟨hr, he⟩ := filterWorks_iff.1 hw
      rcases h with h | h
      · exact absurd (hr.symm.trans h) nofun
      · exact he h
    rw [hexec, followInput_idle hidle, hc]
    rfl
  · rw [hexec, followInput_qualifies (hworks hr he) (hchannel ▸ hf) hne (hchannel ▸ h0), hc]
    rfl
  · refine ⟨_, hexec, ?_⟩
    rw [followInput_accepts (hworks hr he) (hchannel ▸ hf) hne (hchannel ▸ h0), hc]
    exact acceptEdge_handled (s := s.withPins _) harm hm ht
  · rw [acceptance_arm harm] at hu
    cases hu
    have hin : changed.takeArm k
        = (s.takeArm k).withPins { (s.takeArm k).pins with k := (s.takeArm k).pins.k.set k (!(s.takeArm k).inputLevel k) } := by
      rw [takeArm_pins, takeArm_inputLevel, ← hlevel, hc]
      exact takeArm_withPins s k _
    have hafter : exec (.captureInputChange k) (s.takeArm k) = .next ((changed.takeArm k).followInput k level) := by
      rw [hin, hlevel, ← takeArm_inputLevel s k k]
      rfl
    have hfilter : ((changed.takeArm k).channel k).filter = .stable (!level) := by
      rw [takeArm_filter, hchannel]
      exact hf
    have hlength : ((changed.takeArm k).channel k).filterLength = 0 := by
      rw [takeArm_channel, if_pos rfl, hchannel]
      exact h0
    have hw : (changed.takeArm k).filterWorks k = true := by
      rw [filterWorks_iff, takeArm_timebase, takeArm_channel, if_pos rfl]
      exact filterWorks_iff.1 (hworks hr he)
    rw [hexec, hafter, followInput_accepts (hworks hr he) (hchannel ▸ hf) hne (hchannel ▸ h0),
      followInput_accepts hw hfilter hne hlength, acceptEdge_takeArm, State.now, State.now, takeArm_timebase]
  · rw [hexec, followInput_returns (hworks hr he) (hchannel ▸ hf), hc]
    rfl
  · have hmexec : exec (.captureInputChange k) { s with pauses := 0 :: s.pauses.tail }
        = .next ((changed.withPauses (0 :: s.pauses.tail)).followInput k level) := by
      rw [hc, hlevel]
      rfl
    have hpauses : changed.pauses = s.pauses := by rw [hc]; rfl
    cases hmexec.symm.trans hm
    rcases followInput_cases changed k level with ⟨f, hcase⟩ | hcase
    · rw [hcase, setFilter_arm, hchannel] at hasked
      exact absurd harm hasked
    · have hwhole : changed.followInput k level = changed.acceptEdge k level changed.now := hcase changed.pauses
      rw [acceptance_arm hasked, hexec, hwhole, hcase]
      rw [hcase, ← hpauses] at hasked
      rw [← hpauses] at hp ⊢
      rw [acceptEdge_paused (hchannel ▸ harm) hp hasked]

/-! ### Acceptances (R118) -/

/-- The row ACCEPTANCE of a channel with no trigger arm to come, by its filter (R118). -/
theorem acceptance_stable {l : Bool} (harm : (s.channel k).arm = none) (hf : (s.channel k).filter = .stable l) :
    exec (.acceptance k) s = .next s := by
  simp only [exec, execAcceptance, harm, hf, Option.isSome_none, Bool.false_eq_true, if_false]

theorem acceptance_qualifying {l : Bool} {a b : Tick} (harm : (s.channel k).arm = none)
    (hf : (s.channel k).filter = .qualifying l a b) :
    exec (.acceptance k) s = .next (if s.isDue b then s.acceptEdge k (!l) a else s) := by
  simp only [exec, execAcceptance, harm, hf, Option.isSome_none, Bool.false_eq_true, if_false]

/-- When a time is due (R37, R118). -/
theorem isDue_iff {x : Tick} : s.isDue x = true ↔ s.timebase.running = true ∧ signedDistance x s.now ≤ 0 := by
  rw [State.isDue, Bool.and_eq_true, decide_eq_true_eq]

theorem not_isDue {x : Tick} (h : s.timebase.running = false ∨ 0 < signedDistance x s.now) : ¬ s.isDue x = true := by
  rw [isDue_iff]
  rintro ⟨hr, hd⟩
  rcases h with h | h
  · exact absurd (hr.symm.trans h) nofun
  · omega

/-- The end of a fire does not look at the channels. -/
theorem endFire_setChannel (s : State) (k : ChannelId) (c : Channel) : (s.setChannel k c).endFire = s.endFire.setChannel k c := by
  refine (runFire_beside 5 s (s.setChannel k c)).trans ?_
  obtain ⟨_, _, _, _, _, h⟩ := runFire_frame 5 s
  rw [State.endFire, h]
  rfl

/-- A trigger arm still to come waits for the fire of its slot (R9, R124). -/
theorem takeArm_waits {a : TriggerArm} (harm : (s.channel k).arm = some a) (hf : s.firedSlot = some a.slot) :
    s.takeArm k = s.endFire.takeArm k := by
  have hchannel : s.endFire.channel k = s.channel k := congrArg (fun u : CaptureUnit => u.channels[k]) (runFire_capture 5 s)
  rw [State.takeArm, State.takeArm, hchannel, harm]
  dsimp only
  rw [State.triggerArm, State.triggerArm, claim_fired (s := s.setChannel k _) hf, endFire_setChannel,
    claim_idle (s := s.endFire.setChannel k _) (endFire_dispatcher s)]

/-- Settles O37: a trigger arm still to come first, then the filter. -/
theorem acceptanceHandles : Obligations.AcceptanceHandles := by
  refine fun s k => ⟨fun harm => ⟨fun l hf => acceptance_stable harm hf, fun l a b hf => ⟨fun h => ?_, fun hr hd hm ht => ?_⟩,
    fun m hp hm hasked => ?_⟩, fun arm harm => ⟨fun hm hf => ?_, fun u hf hu => ?_⟩⟩
  · rw [acceptance_qualifying harm hf, if_neg (not_isDue h)]
  · rw [acceptance_qualifying harm hf, if_pos (isDue_iff.2 ⟨hr, hd⟩)]
    exact ⟨_, rfl, acceptEdge_handled harm hm ht⟩
  · cases hfilter : (s.channel k).filter with
    | stable l =>
      cases (acceptance_stable (s := s.withPauses (0 :: s.pauses.tail)) harm hfilter).symm.trans hm
      exact absurd harm hasked
    | qualifying l a b =>
      cases (acceptance_qualifying (s := s.withPauses (0 :: s.pauses.tail)) harm hfilter).symm.trans hm
      by_cases hd : s.isDue b = true
      · rw [if_pos (show (s.withPauses (0 :: s.pauses.tail)).isDue b = true from hd)] at hasked ⊢
        rw [acceptance_arm hasked, acceptance_qualifying harm hfilter, if_pos hd, acceptEdge_paused harm hp hasked]
      · rw [if_neg (show ¬ (s.withPauses (0 :: s.pauses.tail)).isDue b = true from hd)] at hasked
        exact absurd harm hasked
  · have harmed := triggerArm_armed (s := s.setChannel k { s.channel k with arm := none }) (k := k) (a := arm) hm hf
    refine ⟨_, acceptance_arm (by rw [harm]; nofun), ?_⟩
    rw [State.takeArm, harm]
    exact harmed
  · obtain ⟨-, rfl⟩ := (fireEnded_iff s u).1 hu
    have hchannel : s.endFire.channel k = s.channel k := congrArg (fun u : CaptureUnit => u.channels[k]) (runFire_capture 5 s)
    rw [acceptance_arm (by rw [harm]; nofun), acceptance_arm (by rw [hchannel, harm]; nofun), takeArm_waits harm hf]

/-! ### Channel configuration commits (R121, R155, R162) -/

/-- The configuration that the committed bytes stand for (R162). -/
theorem configured_eq (c : Channel) (x : BitVec 48) : c.configured x = { c with
    edge := edgeSelectOf (x.extractLsb' 0 2), filterLength := x.extractLsb' 8 8
    trigger := (if h : (x.extractLsb' 16 8).toNat < 64 then some ⟨(x.extractLsb' 16 8).toNat, h⟩ else none)
    offset := x.extractLsb' 24 24 } := by
  rw [Channel.configured, byteOf_eq, byteOf_eq]
  rfl

section Commit
variable {x : BitVec 48} {c : Channel}

/-- A commit by the filter it finds (R121). -/
theorem commitChannel_stable {l : Bool} (hk : s.selectedChannel = k) (hc : (s.channel k).configured x = c)
    (hf : (s.channel k).filter = .stable l) : s.commitChannel x = s.setChannel k c := by
  have hfilter : c.filter = .stable l := by rw [← hc]; exact hf
  simp only [State.commitChannel, hk, hc, hfilter]

theorem commitChannel_off {l : Bool} {a b : Tick} (hk : s.selectedChannel = k) (hc : (s.channel k).configured x = c)
    (hf : (s.channel k).filter = .qualifying l a b) (he : c.edge = .off) :
    s.commitChannel x = s.setChannel k { c with filter := .stable (s.inputLevel k) } := by
  have hfilter : c.filter = .qualifying l a b := by rw [← hc]; exact hf
  simp only [State.commitChannel, hk, hc, hfilter, if_pos he]

theorem commitChannel_kept {l : Bool} {a b : Tick} (hk : s.selectedChannel = k) (hc : (s.channel k).configured x = c)
    (hf : (s.channel k).filter = .qualifying l a b) (he : c.edge ≠ .off) (hl : c.filterLength = (s.channel k).filterLength) :
    s.commitChannel x = s.setChannel k c := by
  have hfilter : c.filter = .qualifying l a b := by rw [← hc]; exact hf
  simp only [State.commitChannel, hk, hc, hfilter, if_neg he, if_pos hl]

theorem commitChannel_moved {l : Bool} {a b : Tick} (hk : s.selectedChannel = k) (hc : (s.channel k).configured x = c)
    (hf : (s.channel k).filter = .qualifying l a b) (he : c.edge ≠ .off) (hl : c.filterLength ≠ (s.channel k).filterLength) :
    s.commitChannel x =
      if s.isDue (a + c.filterLength.setWidth 32) then
        (s.setChannel k { c with filter := .qualifying l a (a + c.filterLength.setWidth 32) }).acceptEdge k (!l) a
      else s.setChannel k { c with filter := .qualifying l a (a + c.filterLength.setWidth 32) } := by
  have hfilter : c.filter = .qualifying l a b := by rw [← hc]; exact hf
  simp only [State.commitChannel, hk, hc, hfilter, if_neg he, if_neg hl]
  rfl

/-- A commit moves the filter or accepts its edge, whatever the pauses (R121). -/
theorem commitChannel_cases (hk : s.selectedChannel = k) (hc : (s.channel k).configured x = c) :
    (∃ f, ∀ p, (s.withPauses p).commitChannel x = (s.setChannel k { c with filter := f }).withPauses p)
      ∨ ∃ f l a, ∀ p, (s.withPauses p).commitChannel x
        = ((s.setChannel k { c with filter := f }).withPauses p).acceptEdge k l a := by
  cases hf : (s.channel k).filter with
  | stable l =>
    have hfilter : c.filter = .stable l := by rw [← hc]; exact hf
    refine .inl ⟨.stable l, fun p => ?_⟩
    rw [commitChannel_stable (s := s.withPauses p) hk hc hf, ← hfilter]
    rfl
  | qualifying l a b =>
    have hfilter : c.filter = .qualifying l a b := by rw [← hc]; exact hf
    by_cases he : c.edge = .off
    · exact .inl ⟨.stable (s.inputLevel k), fun p => commitChannel_off (s := s.withPauses p) hk hc hf he⟩
    by_cases hl : c.filterLength = (s.channel k).filterLength
    · refine .inl ⟨.qualifying l a b, fun p => ?_⟩
      rw [commitChannel_kept (s := s.withPauses p) hk hc hf he hl, ← hfilter]
      rfl
    by_cases hd : s.isDue (a + c.filterLength.setWidth 32) = true
    · exact .inr ⟨_, _, _, fun p => (commitChannel_moved (s := s.withPauses p) hk hc hf he hl).trans (if_pos hd)⟩
    · exact .inl ⟨_, fun p => (commitChannel_moved (s := s.withPauses p) hk hc hf he hl).trans (if_neg hd)⟩

end Commit

/-- The port does not matter to an edge handled. -/
theorem EdgeHandled.advance {t : State} (h : EdgeHandled s t k level stamp) :
    EdgeHandled s.advance t.advance k level stamp := by
  obtain ⟨hstate, hrest⟩ := h
  refine ⟨?_, hrest⟩
  rw [hstate]
  rfl

/-- The state in which a channel commit finds its holding bytes committed (R155). -/
def State.capConfigHeld (s : State) (x : BitVec 48) : State :=
  s.withWindow { s.window with hold := { s.window.hold with capConfig := x } }

/-- Settles O38: the filter that the commit finds, and the edge accepted at once with what comes before and after it. -/
theorem channelConfigurationCommits : Obligations.ChannelConfigurationCommits := by
  intro s v k x new committed hw hsel hx hnew hcommitted
  have hexec : exec (.channelConfigurationCommit v) s = .next ((s.capConfigHeld x).commitChannel x).advance := by
    rw [hx]
    exact congrArg Host.Outcome.next (writeAt_eq hw _)
  have hk : (s.capConfigHeld x).selectedChannel = k := Fin.ext hsel.symm
  have hconf : ((s.capConfigHeld x).channel k).configured x = new := (configured_eq (s.channel k) x).trans hnew.symm
  have hdone : committed = ((s.capConfigHeld x).setChannel k new).advance := hcommitted
  have harmnew : new.arm = (s.channel k).arm := by rw [hnew]
  refine ⟨fun l hf => ?_, fun l a b hf => ⟨fun he => ?_, fun he hl => ?_, fun he hl => ⟨fun h => ?_, fun hr hd =>
    ⟨fun harm hm ht => ?_, fun u harm hu => ?_⟩⟩⟩, fun m harm hp hm hasked => ?_⟩
  · rw [hexec, commitChannel_stable hk hconf hf, hdone]
  · rw [hexec, commitChannel_off hk hconf hf he, hcommitted]
    rfl
  · rw [hexec, commitChannel_kept hk hconf hf he hl, hdone]
  · rw [hexec, commitChannel_moved hk hconf hf he hl, if_neg (not_isDue (s := s.capConfigHeld x) h), hcommitted]
    rfl
  · have hnone : new.arm = none := harmnew.trans harm
    refine ⟨_, hexec, ?_⟩
    rw [commitChannel_moved hk hconf hf he hl, if_pos (isDue_iff (s := s.capConfigHeld x).2 ⟨hr, hd⟩), acceptEdge_setFilter hnone, hdone]
    rw [hdone] at ht
    refine EdgeHandled.advance (acceptEdge_handled ?_ hm ht)
    rw [State.setChannel_channel_self]
    exact hnone
  · rw [acceptance_arm harm] at hu
    cases hu
    have hheld : (s.takeArm k).capConfigHeld x = (s.capConfigHeld x).takeArm k := by
      obtain ⟨_, _, _, _, _, _, hframe⟩ := takeArm_frame s k
      have hwindow : (s.takeArm k).window = s.window := by rw [hframe]
      rw [State.capConfigHeld, State.capConfigHeld, takeArm_withWindow, hwindow]
    have hport : (s.takeArm k).port = s.port ∧ (s.takeArm k).window = s.window := by
      obtain ⟨_, _, _, _, _, _, hframe⟩ := takeArm_frame s k
      rw [hframe]
      exact ⟨rfl, rfl⟩
    have hafter : exec (.channelConfigurationCommit v) (s.takeArm k)
        = .next (((s.capConfigHeld x).takeArm k).commitChannel x).advance := by
      rw [← hheld, hx, ← hport.2]
      refine congrArg Host.Outcome.next (writeAt_eq ?_ _)
      rw [WritesAt, hport.1]
      exact hw
    have hchannel : ((s.capConfigHeld x).takeArm k).channel k = { s.channel k with arm := none } := by
      rw [takeArm_channel, if_pos rfl]
      rfl
    have hk' : ((s.capConfigHeld x).takeArm k).selectedChannel = k := by
      rw [← hheld]
      exact Fin.ext (by rw [hsel, ← hport.2]; rfl)
    have hconf' : (((s.capConfigHeld x).takeArm k).channel k).configured x = { new with arm := none } := by
      rw [hchannel, ← hconf]
      rfl
    have hdue : ((s.capConfigHeld x).takeArm k).isDue (a + new.filterLength.setWidth 32) = true := by
      rw [isDue_iff, State.now, takeArm_timebase]
      exact ⟨hr, hd⟩
    rw [hexec, hafter, commitChannel_moved hk hconf hf he hl, if_pos (isDue_iff (s := s.capConfigHeld x).2 ⟨hr, hd⟩), acceptEdge_takeArm,
      takeArm_setChannel (s := s.capConfigHeld x)
        (c := { new with filter := .qualifying l a (a + new.filterLength.setWidth 32) }) harmnew,
      commitChannel_moved hk' hconf' (by rw [hchannel]; exact hf) he (by rw [hchannel]; exact hl), if_pos hdue]
  · have hmexec : exec (.channelConfigurationCommit v) { s with pauses := 0 :: s.pauses.tail }
        = .next (((s.capConfigHeld x).withPauses (0 :: s.pauses.tail)).commitChannel x).advance := by
      rw [hx]
      exact congrArg Host.Outcome.next (writeAt_eq (s := s.withPauses (0 :: s.pauses.tail)) hw _)
    cases hmexec.symm.trans hm
    have hself (f : Filter) (p : List Nat) :
        ((((s.capConfigHeld x).setChannel k { new with filter := f }).withPauses p).channel k).arm = none :=
      (congrArg Channel.arm (State.setChannel_channel_self _ k _)).trans (harmnew.trans harm)
    rcases commitChannel_cases hk hconf with ⟨f, hcase⟩ | ⟨f, l, a, hcase⟩
    · rw [hcase] at hasked
      exact absurd (hself f (0 :: s.pauses.tail)) hasked
    · have hwhole : (s.capConfigHeld x).commitChannel x
          = ((s.capConfigHeld x).setChannel k { new with filter := f }).acceptEdge k l a := hcase s.pauses
      rw [acceptance_arm hasked, hexec, hwhole, hcase, takeArm_advance]
      rw [hcase] at hasked
      rw [acceptEdge_paused (s := (s.capConfigHeld x).setChannel k { new with filter := f }) (hself f s.pauses) hp hasked]
      rfl

end CaptureRows

end Sys2Proof.Machine
end

section
/-! SOFT_RESET (09, section 9.6): its stages one by one and together, and what a fire in progress and the pauses have to do
with them. -/

namespace Sys2Proof.Machine

/-! ### A fire and the run state (R38, R150) -/

section Halted
variable {s : State}

/-- `s` with its Timebase STOPPED. -/
def State.halted (s : State) : State := s.withTimebase { s.timebase with running := false, phase := none }

/-- What a fire does looks at T alone of the Timebase: posts, placements and stages. -/
theorem post_halted (s : State) (stamp : Tick) (body : NotificationBody) : s.halted.post stamp body = (s.post stamp body).halted := by
  rw [post_eq, post_eq]
  rfl

theorem postIf_halted (s : State) (stamp : Tick) (body : Option NotificationBody) :
    s.halted.postIf stamp body = (s.postIf stamp body).halted := by
  rw [postIf_eq, postIf_eq]
  rfl

theorem placeSlot_halted (s : State) (i : SlotId) (r : Slot) (due ref : Tick) :
    s.halted.placeSlot i r due ref = (s.placeSlot i r due ref).halted := by
  have hgroup : (s.halted.group r.desc.group).suspended = (s.group r.desc.group).suspended := rfl
  unfold State.placeSlot
  rw [hgroup]
  split <;> rfl

theorem applyStage_halted (s : State) (c : FireCopy) : s.halted.applyStage c = (s.applyStage c).halted := by
  by_cases hd : c.desc.drops c.lam = true
  · rw [applyStage_dropped hd, applyStage_dropped hd]
  · cases hl : c.desc.actsOn with
    | none => rw [applyStage_noLine hd hl, applyStage_noLine hd hl]
    | some l =>
      rw [applyStage_line hd hl, applyStage_line hd hl]
      rfl

theorem accountAndPlace_halted (s : State) (c : FireCopy) : s.halted.accountAndPlace c = (s.accountAndPlace c).halted := by
  have hslot : s.halted.slot c.slot = s.slot c.slot := rfl
  unfold State.accountAndPlace
  rw [hslot]
  dsimp only
  split
  · rfl
  · exact placeSlot_halted s _ _ _ _

theorem chain_halted (s : State) (c : FireCopy) (outcome : FireOutcome) : s.halted.chain c outcome = (s.chain c outcome).halted := by
  cases ht : c.target outcome with
  | none => rw [chain_none ht, chain_none ht]
  | some j =>
    by_cases hj : (s.slot j).state = .loaded
    · rw [chain_loaded ht hj, chain_loaded (s := s.halted) ht hj]
      exact placeSlot_halted s _ _ _ _
    · rw [chain_other ht hj, chain_other (s := s.halted) ht hj]

theorem fireStage_halted (s : State) (c : FireCopy) (stage : FireStage) :
    s.halted.fireStage c stage = (s.fireStage c stage).halted := by
  cases stage with
  | apply => exact congrArg (State.withDispatcher · _) (applyStage_halted s c)
  | place a => exact congrArg (State.withDispatcher · _) (accountAndPlace_halted s c)
  | chain a last skips => exact congrArg (State.withDispatcher · _) (chain_halted s c a.outcome)
  | notify a last skips missed => exact congrArg (State.withDispatcher · _) (postIf_halted s _ _)
  | miss j => exact congrArg (State.withDispatcher · _) (post_halted s _ _)

theorem runFire_halted (n : Nat) (s : State) : s.halted.runFire n = (s.runFire n).halted := by
  induction n generalizing s with
  | zero => rfl
  | succ n ih =>
    cases h : s.dispatcher with
    | idle => rw [runFire_idle h, runFire_idle (s := s.halted) h]
    | firing c stage => rw [runFire_succ h, runFire_succ (s := s.halted) h, fireStage_halted, ih]

/-- The end of a fire and the stop of the Timebase do not meet (R150). -/
theorem endFire_stopTimebase (s : State) : s.stopTimebase.endFire = s.endFire.stopTimebase := by
  have hstop : s.stopTimebase = s.halted.beside s.stopTimebase := rfl
  rw [hstop, State.endFire, runFire_beside, runFire_halted]
  obtain ⟨_, _, _, _, _, h⟩ := runFire_frame 5 s
  rw [State.endFire, h]
  rfl

/-- The end of a fire does not look at the command in hand. -/
theorem endFire_work (s : State) (w : Work) : (s.work w).endFire = s.endFire.work w := by
  refine (runFire_beside 5 s (s.work w)).trans ?_
  obtain ⟨_, _, _, _, _, h⟩ := runFire_frame 5 s
  rw [State.endFire, h]
  rfl

/-- A fire that has ended has nothing left. -/
theorem endFire_endFire (s : State) : s.endFire.endFire = s.endFire := runFire_idle (endFire_dispatcher s) 5

end Halted

/-! ### What the stages do not look at (log 24) -/

section Pauses
variable {s : State}

/-- A trigger arm does not look at the pauses. -/
theorem triggerArm_withPauses (s : State) (k : ChannelId) (a : TriggerArm) (p : List Nat) :
    (s.withPauses p).triggerArm k a = (s.triggerArm k a).withPauses p := by
  refine (triggerArm_beside s (s.withPauses p) k a).trans ?_
  obtain ⟨_, _, _, _, _, h⟩ := triggerArm_frame s k a
  rw [h]
  rfl

theorem takeArm_withPauses (s : State) (k : ChannelId) (p : List Nat) :
    (s.withPauses p).takeArm k = (s.takeArm k).withPauses p := by
  unfold State.takeArm
  rw [State.withPauses_channel]
  cases (s.channel k).arm with
  | none => rfl
  | some a => exact triggerArm_withPauses (s.setChannel k { s.channel k with arm := none }) k a p

theorem takeArms_withPauses (s : State) (p : List Nat) : (s.withPauses p).takeArms = s.takeArms.withPauses p := by
  have h : ∀ (ks : List ChannelId) (u : State), ks.foldl State.takeArm (u.withPauses p) = (ks.foldl State.takeArm u).withPauses p := by
    intro ks
    induction ks with
    | nil => exact fun _ => rfl
    | cons k rest ih =>
      intro u
      rw [List.foldl_cons, List.foldl_cons, takeArm_withPauses, ih]
  exact h _ s

/-- The first stage of SOFT_RESET does not look at the pauses. -/
theorem resetStop_withPauses (s : State) (p : List Nat) : (s.withPauses p).resetStop = s.resetStop.withPauses p := by
  by_cases h : s.timebase.running = true
  · rw [State.resetStop, State.resetStop, if_pos h, if_pos (show (s.withPauses p).timebase.running = true from h),
      State.stopRunning, takeArms_withPauses]
    rfl
  · rw [State.resetStop, State.resetStop, if_neg h, if_neg (show ¬ (s.withPauses p).timebase.running = true from h)]

/-- Nor do the other stages, and none of them moves the port. -/
theorem resetStage_withPauses (s : State) (stage : ResetStage) (p : List Nat) :
    (s.withPauses p).resetStage stage = (s.resetStage stage).withPauses p := by
  cases stage with
  | endOfFire =>
    rw [State.resetStage, endFire_withPauses]
    rfl
  | _ => rfl

theorem resetStage_advance (s : State) (stage : ResetStage) : s.advance.resetStage stage = (s.resetStage stage).advance := by
  cases stage with
  | endOfFire =>
    have hend : s.advance.endFire = s.endFire.advance := by
      refine (runFire_beside 5 s s.advance).trans ?_
      obtain ⟨_, _, _, _, _, h⟩ := runFire_frame 5 s
      rw [State.endFire, h]
      rfl
    rw [State.resetStage, hend]
    rfl
  | _ => rfl

/-- A stage of SOFT_RESET but the last leaves the next in hand (R150). -/
theorem resetStage_next {stage : ResetStage} (s : State) (h : stage ≠ .completion) :
    ∃ next, (s.resetStage stage).cmd.inHand = some (.softReset next) := by
  cases stage with
  | completion => exact absurd rfl h
  | _ => exact ⟨_, rfl⟩

/-- With no stage of SOFT_RESET in hand none is taken. -/
theorem runReset_idle (h : s.cmd.inHand = none) (n : Nat) : s.runReset n = s := by
  cases n with
  | zero => rfl
  | succ n => simp only [State.runReset, h]

/-- What commutes with each stage commutes with any number of them. -/
theorem runReset_commutes {f : State → State} (hw : ∀ u, (f u).cmd.inHand = u.cmd.inHand)
    (hstage : ∀ u stage, (f u).resetStage stage = f (u.resetStage stage)) (n : Nat) (s : State) :
    (f s).runReset n = f (s.runReset n) := by
  induction n generalizing s with
  | zero => rfl
  | succ n ih =>
    unfold State.runReset
    rw [hw]
    split
    · rw [hstage, ih]
    · rfl

theorem runReset_withPauses (n : Nat) (s : State) (p : List Nat) : (s.withPauses p).runReset n = (s.runReset n).withPauses p :=
  runReset_commutes (f := (State.withPauses · p)) (fun _ => rfl) (fun u stage => resetStage_withPauses u stage p) n s

theorem runReset_advance (n : Nat) (s : State) : s.advance.runReset n = (s.runReset n).advance :=
  runReset_commutes (f := State.advance) (fun _ => rfl) resetStage_advance n s

theorem runReset_pauses (n : Nat) (s : State) : (s.runReset n).pauses = s.pauses := by
  have h : s.runReset n = (s.runReset n).withPauses s.pauses := (runReset_withPauses n s s.pauses)
  rw [h]
  rfl

theorem resetStop_pauses (s : State) : s.resetStop.pauses = s.pauses := by
  have h : s.resetStop = s.resetStop.withPauses s.pauses := resetStop_withPauses s s.pauses
  rw [h]
  rfl

end Pauses

/-! ### The first stage (R106, R119, R150) -/

section ResetStop
variable {s : State}

/-- The first stage with no trigger arm to come: a RUNNING Timebase stops, and its qualifications are abandoned. -/
theorem resetStop_running (h : s.timebase.running = true) (harms : NoArms s) : s.resetStop = s.stopTimebase := by
  rw [State.resetStop, if_pos h, State.stopRunning, takeArms_none harms]

theorem resetStop_stopped (h : s.timebase.running = false) : s.resetStop = s := if_neg (Bool.eq_false_iff.1 h)

/-- What the first stage leaves (R106). -/
theorem resetStop_eq (harms : NoArms s) : s.resetStop = { s with
    timebase := { s.timebase with running := false, phase := if s.timebase.running then none else s.timebase.phase }
    capture := { s.capture with channels := s.resetStop.capture.channels } } := by
  cases h : s.timebase.running with
  | true =>
    rw [resetStop_running h harms]
    rfl
  | false =>
    rw [resetStop_stopped h, if_neg Bool.false_ne_true, ← h]

theorem resetStop_channel (harms : NoArms s) (k : ChannelId) : s.resetStop.channel k = { s.channel k with
    filter := if s.timebase.running then (s.channel k).filter.abandoned (s.inputLevel k) else (s.channel k).filter } := by
  cases h : s.timebase.running with
  | true =>
    rw [resetStop_running h harms, State.stopTimebase, State.mapChannels_channel]
    rfl
  | false =>
    rw [resetStop_stopped h, if_neg Bool.false_ne_true]

/-- The first stage and the end of a fire do not meet. -/
theorem endFire_resetStop (harms : NoArms s) : s.resetStop.endFire = s.endFire.resetStop := by
  have hrun : s.endFire.timebase = s.timebase := runFire_timebase 5 s
  have harms' : NoArms s.endFire := fun k =>
    (congrArg (fun u : CaptureUnit => (u.channels[k]).arm) (runFire_capture 5 s)).trans (harms k)
  cases h : s.timebase.running with
  | true => rw [resetStop_running h harms, resetStop_running (by rw [hrun]; exact h) harms', endFire_stopTimebase]
  | false => rw [resetStop_stopped h, resetStop_stopped (by rw [hrun]; exact h)]

end ResetStop

/-! ### The rows (R150, logs 5 and 24) -/

section Rows
variable {s : State}

/-- The second to the ninth stage from where the first leaves the command (R150). -/
theorem softReset_row (ht : TakesCommand s) : exec .softReset s = .next
    ((((s.taken 0x3F).resetStop.work (.softReset .endOfFire)).runReset (min s.further 8)).withPauses s.pauses.tail).advance := by
  have hpauses : (((s.taken 0x3F).resetStop.work (.softReset .endOfFire)).runReset (min s.further 8)).pauses = s.pauses :=
    (runReset_pauses _ _).trans (resetStop_pauses _)
  refine congrArg Host.Outcome.next ((writeCmdByte_taken ht _ _).trans (congrArg State.advance ?_))
  show State.pauseTaken _ = _
  rw [State.pauseTaken]
  exact congrArg _ (congrArg List.tail hpauses)

/-- The row COMMAND_COMPLETION goes on with the stages (R150, log 24). -/
theorem completion_row {stage : ResetStage} (h : s.cmd.inHand = some (.softReset stage)) (hs : stage ≠ .completion) :
    exec .commandCompletion s = .next ((s.runReset (s.further + 1)).withPauses s.pauses.tail) := by
  have hrow : execCommandCompletion s = .next (s.runReset (s.further + 1)).pauseTaken := by
    unfold execCommandCompletion
    rw [h]
    cases stage with
    | completion => exact absurd rfl hs
    | _ => rfl
  rw [State.pauseTaken, runReset_pauses] at hrow
  exact hrow

/-- The tenth stage (R144, R150). -/
theorem completion_last (h : s.cmd.inHand = some (.softReset .completion)) :
    exec .commandCompletion s = .next (s.resetStage .completion) := by
  simp only [exec, execCommandCompletion, h]

/-- Where others were let in, the row goes on as if they had not been (log 24). -/
theorem completion_goes_on {stage : ResetStage} (h : s.cmd.inHand = some (.softReset stage)) (n : Nat) (more : List Nat) :
    ∃ u, exec .commandCompletion (s.withPauses (n :: more)) = .next u
      ∧ { u with pauses := more } = (s.runReset (n + 1)).withPauses more := by
  by_cases hs : stage = .completion
  · subst hs
    refine ⟨_, completion_last (s := s.withPauses (n :: more)) h, ?_⟩
    rw [runReset_succ h, runReset_idle rfl]
    rfl
  · refine ⟨_, completion_row (s := s.withPauses (n :: more)) h hs, ?_⟩
    show (((s.withPauses (n :: more)).runReset (n + 1)).withPauses more).withPauses more = _
    rw [runReset_withPauses]
    rfl

/-- One stage alone (R150). -/
theorem completion_oneStage {stage : ResetStage} {more : List Nat} (h : s.cmd.inHand = some (.softReset stage))
    (hs : stage ≠ .completion) (hp : s.pauses = 0 :: more) :
    exec .commandCompletion s = .next ((s.resetStage stage).withPauses more) := by
  have hf : s.further = 0 := by rw [State.further, hp]; rfl
  rw [completion_row h hs, hf, hp, runReset_succ h]
  rfl

/-- SOFT_RESET's response of a line by its mode (R78). -/
theorem softReset_cases (l : Line) : l.softReset.current.count = 0 ∧ l.softReset.next = none
    ∧ (l.mode ≠ .normal → l.softReset = { l with current := l.softReset.current, next := none })
    ∧ (l.mode = .normal → l.softReset = { l with
      level := (if l.config.safe = .active then .active else .inactive)
      driven := decide (l.config.safe ≠ .float)
      pulse := none, current := l.softReset.current, next := none, guardCount := 0 }) := by
  rw [← SafeLevel.level_eq, ← SafeLevel.driven_eq]
  by_cases hm : l.mode = .normal
  · have hsafed : l.softReset = l.safed := by simp only [Line.softReset, hm]
    rw [hsafed]
    exact ⟨rfl, rfl, fun h => absurd hm h, fun _ => rfl⟩
  · have hclear : l.softReset = l.clearPatterns := by
      unfold Line.softReset
      split
      · next h => exact absurd h hm
      all_goals rfl
    rw [hclear]
    exact ⟨rfl, rfl, fun _ => rfl, fun h => absurd h hm⟩

/-- The Clock Unit by whether a switch is pending (R115). -/
theorem abandonSwitch_none {c : Clock} (h : c.switching = .none) : c.abandonSwitch = c := by
  rw [Clock.abandonSwitch, h]

theorem abandonSwitch_pending {c : Clock} {n : Nat} (h : c.switching = .pendingExt n) :
    c.abandonSwitch = { c with switching := .none, monitor := .idle, gap := none } := by
  rw [Clock.abandonSwitch, h]

/-- How far the world lets a SOFT_RESET run at once. -/
theorem further_whole {n : Nat} (hw : RunsWhole s n) (hn : n ≤ 16) : n ≤ s.further := by
  cases hp : s.pauses with
  | nil =>
    rw [State.further, hp]
    exact hn
  | cons m more =>
    rw [State.further, hp]
    exact hw m (by rw [hp]; rfl)

/-- A SOFT_RESET that nothing falls into, up to the end of the fire and from there (R150). -/
theorem softReset_whole (ht : TakesCommand s) (hw : RunsWhole s 8) : exec .softReset s = .next
    ((((s.taken 0x3F).resetStop.endFire.work (.softReset .capture)).runReset 7).withPauses s.pauses.tail).advance := by
  rw [softReset_row ht, Nat.min_eq_right (further_whole hw (by decide)), runReset_succ (stage := .endOfFire) rfl,
    State.resetStage, endFire_work]
  rfl

end Rows

end Sys2Proof.Machine
end

section
/-! SOFT_RESET (09, section 9.6): the whole command and each of its stages, settled from the stages' own laws. -/

namespace Sys2Proof.Machine

section SoftReset
variable {s : State}

/-- A table holds at its place what it was made of. -/
theorem tabulate_at {α : Type} {n : Nat} (f : Fin n → α) (i : Fin n) : (tabulate f)[i] = f i :=
  tabulate_getElem f i.val i.isLt

theorem replicate_at {α : Type} {n : Nat} (x : α) (i : Fin n) : (Vector.replicate n x)[i] = x :=
  Vector.getElem_replicate i.isLt

/-- A command row whose SOFT_RESET nothing falls into, from a state at rest (R150). -/
theorem softReset_atRest (ht : TakesCommand s) (hw : RunsWhole s 8) (harms : NoArms s) (hidle : s.dispatcher = .idle) :
    exec .softReset s = .next { s with
      slots := Vector.replicate 64 Slot.cleared, plist := [], groups := Vector.replicate 8 Group.atReset
      lineUnit := { s.lineUnit with lines := tabulate fun l => (s.line l).softReset }
      timebase := { s.timebase with
        t := 0, e := 0, running := false, phase := if s.timebase.running then none else s.timebase.phase }
      clock := s.clock.abandonSwitch
      capture := { s.capture with
        channels := tabulate fun k => { s.channel k with filter := .stable (s.inputLevel k) }, fifo := [] }
      queue := { s.queue with entries := [] }, pauses := s.pauses.tail
      cmd := cmdTaken s 0x3F (.softReset .completion), port := portPast s } := by
  have harms' : NoArms (s.taken 0x3F) := harms
  have hend : (s.taken 0x3F).resetStop.endFire = (s.taken 0x3F).resetStop := by
    rw [endFire_resetStop harms', State.endFire, runFire_idle (s := s.taken 0x3F) hidle]
  have hchannels : (fun k => { (s.taken 0x3F).resetStop.channel k with filter := .stable ((s.taken 0x3F).resetStop.inputLevel k) })
      = fun k => { s.channel k with filter := .stable (s.inputLevel k) } := funext fun k => by
    rw [resetStop_channel harms', State.inputLevel, resetStop_eq harms']
    rfl
  rw [softReset_whole ht hw, hend, runReset_capture rfl]
  refine congrArg Host.Outcome.next ?_
  show State.advance (State.withPauses { (s.taken 0x3F).resetStop.work (.softReset .capture) with
    slots := _, plist := [], groups := _
    lineUnit := _, timebase := _, clock := _
    capture := { ((s.taken 0x3F).resetStop.work (.softReset .capture)).capture with
      channels := tabulate fun k => { (s.taken 0x3F).resetStop.channel k with
        filter := .stable ((s.taken 0x3F).resetStop.inputLevel k) }, fifo := [] }
    queue := _, cmd := _ } _) = _
  rw [hchannels, resetStop_eq harms']
  rfl

/-- A SOFT_RESET on a fire in progress finds it as its end leaves it (R150). -/
theorem softReset_waits {u : State} (ht : TakesCommand s) (hw : RunsWhole s 8) (harms : NoArms s) (hu : FireEnded s u) :
    exec .softReset s = exec .softReset u := by
  have hend := ((fireEnded_iff s u).1 hu).2
  have hpauses : u.pauses = s.pauses := by
    rw [hend]
    exact runFire_pauses 5 s
  have hstop : (s.taken 0x3F).resetStop.endFire = (u.taken 0x3F).resetStop := by
    rw [endFire_resetStop (s := s.taken 0x3F) harms, endFire_taken, hend]
  have hstop' : (u.taken 0x3F).resetStop.endFire = (u.taken 0x3F).resetStop := by
    rw [← hstop, endFire_endFire]
  have hwu : RunsWhole u 8 := by
    unfold RunsWhole
    rw [hpauses]
    exact hw
  rw [softReset_whole ht hw, softReset_whole (hu.takesCommand ht) hwu, hstop, hstop', hpauses]

/-- A trigger arm still to come is made before the first stage (R150, log 24). -/
theorem softReset_arm {k : ChannelId} (ht : TakesCommand s) (hr : s.timebase.running = true)
    (hj : ∀ j : ChannelId, j < k → (s.channel j).arm = none) : exec .softReset s = exec .softReset (s.takeArm k) := by
  have hpauses : (s.takeArm k).pauses = s.pauses := by
    obtain ⟨_, _, _, _, _, _, h⟩ := takeArm_frame s k
    rw [h]
  have hr' : (s.takeArm k).timebase.running = true := by rw [takeArm_timebase]; exact hr
  have hstop : (s.taken 0x3F).resetStop = ((s.takeArm k).taken 0x3F).resetStop := by
    rw [State.resetStop, State.resetStop, if_pos (show (s.taken 0x3F).timebase.running = true from hr),
      if_pos (show ((s.takeArm k).taken 0x3F).timebase.running = true from hr'), State.stopRunning, State.stopRunning,
      takeArms_first_taken hj]
  rw [softReset_row ht, softReset_row (takeArm_takesCommand ht k), hstop, State.further, State.further, hpauses]

/-- The first stage alone (R150). -/
theorem softReset_first {more : List Nat} (ht : TakesCommand s) (hp : s.pauses = 0 :: more) : exec .softReset s
    = .next (((s.taken 0x3F).resetStop.work (.softReset .endOfFire)).withPauses more).advance := by
  have hf : s.further = 0 := by rw [State.further, hp]; rfl
  rw [softReset_row ht, hf, hp]
  rfl

/-- What is let in between the first stage and another is all that lies between the two rows (log 24). -/
theorem softReset_goes_on {n : Nat} {more : List Nat} {m : State} (ht : TakesCommand s) (hn : n ≤ 7)
    (hp : s.pauses = (n + 1) :: more) (hm : exec .softReset { s with pauses := 0 :: n :: more } = .next m) :
    ∃ u : State, exec .commandCompletion m = .next u ∧ exec .softReset s = .next { u with pauses := more } := by
  have hfirst := softReset_first (s := s.withPauses (0 :: n :: more)) ht rfl
  have hstop : ((s.withPauses (0 :: n :: more)).taken 0x3F).resetStop
      = (s.taken 0x3F).resetStop.withPauses (0 :: n :: more) := resetStop_withPauses (s.taken 0x3F) _
  rw [hstop] at hfirst
  cases hfirst.symm.trans hm
  have hf : s.further = n + 1 := by rw [State.further, hp]; rfl
  obtain ⟨u, hu, hsame⟩ := completion_goes_on
    (s := ((s.taken 0x3F).resetStop.work (.softReset .endOfFire)).advance) (stage := .endOfFire) rfl n more
  refine ⟨u, hu, ?_⟩
  rw [softReset_row ht, hf, Nat.min_eq_left (by omega), hp, hsame, runReset_advance]
  rfl

/-- Settles O44: the whole command, the happenings before and inside it, and its stages one by one. -/
theorem softResetReturnsToRest : Obligations.SoftResetReturnsToRest := by
  refine ⟨fun s ht => ⟨fun hw harms hidle => ⟨_, softReset_atRest ht hw harms hidle, rfl, ?_⟩,
    fun hw harms u => softReset_waits ht hw harms, fun hr k u harm hj hu => ?_, fun harms more hp => ?_,
    fun n more m => softReset_goes_on ht⟩, fun s stage n more m h hs hp hm => ?_, fun s more hp => ?_⟩
  · refine ⟨replicate_at Slot.cleared, replicate_at Group.atReset, tabulate_at _, abandonSwitch_none,
      fun n => abandonSwitch_pending, fun l => ?_⟩
    have hline : (tabulate fun l => (s.line l).softReset)[l] = (s.line l).softReset := tabulate_at _ l
    have hcases := softReset_cases (s.line l)
    rw [← hline] at hcases
    exact hcases
  · rw [acceptance_arm harm] at hu
    cases hu
    exact softReset_arm ht hr hj
  · refine ⟨_, softReset_first ht hp, ?_, fun k => ?_⟩
    · rw [resetStop_eq (s := s.taken 0x3F) harms]
      rfl
    · have hchannel : ((((s.taken 0x3F).resetStop.work (.softReset .endOfFire)).withPauses more).advance).channel k
          = { s.channel k with
            filter := if s.timebase.running then (s.channel k).filter.abandoned (s.inputLevel k) else (s.channel k).filter } :=
        resetStop_channel (s := s.taken 0x3F) harms k
      rw [hchannel]
      refine ⟨?_, fun l a b hr hf => ?_⟩
      · rintro (h | ⟨l, h⟩)
        · rw [h, if_neg Bool.false_ne_true]
        · rw [h, Filter.abandoned, ite_self, ← h]
      · rw [hr, if_pos rfl, hf]
        rfl
  · have hf : s.further = n + 1 := by rw [State.further, hp]; rfl
    have hone := completion_oneStage (s := s.withPauses (0 :: n :: more)) h hs rfl
    rw [resetStage_withPauses] at hone
    cases hone.symm.trans hm
    obtain ⟨next, hnext⟩ := resetStage_next s hs
    obtain ⟨u, hu, hsame⟩ := completion_goes_on hnext n more
    refine ⟨u, hu, ?_⟩
    rw [completion_row h hs, hf, hp, hsame, runReset_succ h]
    rfl
  · refine ⟨fun h => ⟨fun hidle => ?_, fun u hu => ?_⟩, fun h => ?_, fun h => ?_, fun h => ?_, fun h => ?_,
      fun h => ⟨fun hc => ?_, fun n hc => ?_⟩, fun h => ?_, fun h => ?_⟩
    · rw [completion_oneStage h nofun hp, State.resetStage, State.endFire, runFire_idle hidle]
      rfl
    · have hend := ((fireEnded_iff s u).1 hu).2
      have hpu : u.pauses = 0 :: more := by
        rw [hend, ← hp]
        exact runFire_pauses 5 s
      have hwu : u.cmd.inHand = some (.softReset .endOfFire) := by
        rw [hend, endFire_cmd]
        exact h
      rw [completion_oneStage h nofun hp, completion_oneStage hwu nofun hpu, State.resetStage, State.resetStage, hend,
        endFire_endFire]
    · rw [completion_oneStage h nofun hp, resetStage_capture]
      exact ⟨_, rfl, rfl, tabulate_at _⟩
    · rw [completion_oneStage h nofun hp, resetStage_slots]
      exact ⟨_, rfl, rfl, replicate_at Slot.cleared⟩
    · rw [completion_oneStage h nofun hp, resetStage_groups]
      exact ⟨_, rfl, rfl, replicate_at Group.atReset⟩
    · rw [completion_oneStage h nofun hp]
      refine ⟨_, rfl, rfl, fun l => ?_⟩
      have hline : ((s.resetStage .lines).withPauses more).line l = (s.line l).softReset :=
        State.mapLines_line s (fun _ l => l.softReset) l
      rw [hline]
      exact softReset_cases (s.line l)
    · rw [completion_oneStage h nofun hp, resetStage_clock, abandonSwitch_none hc]
      rfl
    · rw [completion_oneStage h nofun hp, resetStage_clock, abandonSwitch_pending hc]
      rfl
    · rw [completion_oneStage h nofun hp, resetStage_time]
      rfl
    · rw [completion_oneStage h nofun hp, resetStage_queue]
      rfl

end SoftReset

end Sys2Proof.Machine
end

section
/-! The machine's own rows (00, 09, 10): the step, reset, what a completion and a write of CMD do, frames, full reset, and
rows out of place. -/

namespace Sys2Proof.Machine

section Machine
variable {s : State}

/-! ### The step and reset -/

/-- Settles O1: the front of the queue is taken, and an empty queue idles. -/
theorem stepTakesTheHead : Obligations.StepTakesTheHead := by
  refine ⟨fun c rest s h => ?_, fun s h => ?_⟩
  · simp only [step, h, State.withPending]
  · simp only [step, h]

/-- Each channel at full reset is OFF and STABLE at its input (R127). -/
theorem fullResetImage_channel (pins : Pins) (draws : Nat) (pauses : List Nat) (pending : List Instr) (k : ChannelId) :
    (State.fullResetImage pins draws pauses pending).channel k = Channel.atReset pins.k[k] := by
  simp [State.channel, State.fullResetImage, CaptureUnit.atReset]

/-- Settles O3: record by record, each at its value. -/
theorem resetValues : Obligations.ResetValues := by
  refine ⟨replicate_at Slot.cleared, rfl, rfl, fun l => ?_, rfl, rfl, rfl, replicate_at Group.atReset, rfl, rfl,
    fullResetImage_channel _ _ _ _, rfl, rfl, rfl, rfl, rfl, rfl, rfl, rfl, rfl, rfl, rfl, rfl, rfl, rfl, rfl, rfl, rfl, rfl, rfl,
    rfl, rfl, rfl, rfl, rfl, rfl⟩
  have hline : State.reset.line l = Line.atReset := fullResetImage_line _ _ _ _ l
  rw [hline]
  exact ⟨rfl, rfl, rfl, rfl, rfl, rfl, rfl, rfl⟩

/-- The port at full reset is IDLE (R154). -/
theorem portSound_reset : PortSound State.reset := ⟨fun h => absurd rfl h, nofun⟩

/-- Settles O4: each invariant holds of the full-reset image. -/
theorem resetIsSound : Obligations.ResetIsSound :=
  ⟨listMatches_fullResetImage _ _ _ _, List.Pairwise.nil, slotsSound_fullResetImage _ _ _ _,
    suspensionSound_empty (fun _ hw => by cases hw) (fun i => congrArg Slot.state (replicate_at Slot.cleared i)),
    fun l => by rw [State.reset, fullResetImage_line]; exact lineSound_atReset _, timebaseSound_fullResetImage _ _ _ _,
    clockSound_atReset, channelsSound_fullResetImage _ _ _ _, fifoSound_fullResetImage _ _ _ _, queueSound_nil,
    portSound_reset, fireSound_fullResetImage _ _ _ _⟩

/-! ### IRQN and CTRL (R137, R160) -/

/-- Settles O41: IRQN by the two conditions of R137, and the two bits of CTRL. -/
theorem irqnFollows : Obligations.IrqnFollows := by
  refine ⟨fun s => ?_, fun s v hw => congrArg Host.Outcome.next (writeAt_eq hw _)⟩
  rw [State.irqnAsserted, Bool.and_eq_true, Bool.not_eq_true', Ne, ← List.isEmpty_iff, Bool.not_eq_true]

/-! ### Writes of CMD and completions (R141, R143, R144) -/

/-- A code of no command is handed to no block (R141). -/
theorem commandEffect_unknown {code : Byte} (h : namesCommand code = false) : commandEffect code = unknownCommand := by
  simp only [namesCommand, commandCodes, List.contains_cons, List.contains_nil, Bool.or_eq_false_iff, beq_eq_false_iff_ne] at h
  simp only [commandEffect, h, if_false]

/-- The rows that carry a written code act as a write of CMD. -/
theorem exec_collide_busy {code : Byte} {w : Work} (hw : WritesAt s 0x0E) (h : s.cmd.inHand = some w) :
    exec (.collide code) s = .next { s with cmd := { s.cmd with collide := true }, port := portPast s } := by
  have hbusy : s.busy = true := by rw [State.busy, h]; rfl
  show Host.Outcome.next _ = _
  have hcmd : WritesAt s cmdAddr := hw
  rw [if_pos hbusy, writeAt_eq hcmd]
  rfl

/-- A byte written at the pointer (R153). -/
theorem exec_registerWrite {a : Nat} (hf : s.port.frame = .write) (hp : s.port.pointer.toNat = a) (v : Byte) :
    exec (.registerWrite v) s = .next (s.writeByte a v).advance := by
  show Host.Outcome.next _ = _
  rw [if_pos hf, hp]

/-- REGISTER_WRITE with the pointer at CMD is a write of CMD (log 3). -/
theorem exec_registerWrite_cmd (hw : WritesAt s 0x0E) (v : Byte) :
    exec (.registerWrite v) s = .next (s.writeCmdByte v (commandEffect v)) := by
  have hcmd : WritesAt s cmdAddr := hw
  rw [exec_registerWrite hw.1 (congrArg BitVec.toNat hw.2) v, State.writeCmdByte, writeAt_eq hcmd]
  rfl

/-- Settles O42: UNKNOWN where the unit is IDLE, COLLIDE where it is BUSY. -/
theorem unknownAndCollide : Obligations.UnknownAndCollide := by
  refine ⟨fun s code ht h => ?_, fun s w collided hw h hc => ?_⟩
  · refine congrArg Host.Outcome.next (writeCmdByte_answers ht ?_)
    rw [commandEffect_unknown h, unknownCommand]
  · subst hc
    have busy (code : Byte) : Host.Outcome.next (s.writeCmdByte code (commandEffect code))
        = (.next { s with cmd := { s.cmd with collide := true }, port := portPast s } : Host.Outcome State Fault Refusal) :=
      congrArg Host.Outcome.next (writeCmdByte_busy hw h code _)
    exact ⟨fun code => exec_collide_busy hw h, busy, fun code => (exec_registerWrite_cmd hw code).trans (busy code),
      fun c code hc => (exec_of_code hc s).trans (busy code)⟩

/-- Settles O43: the completion of a command, and SOFT_RESET's. -/
theorem completionWritesResult : Obligations.CompletionWritesResult := by
  refine fun s => ⟨fun r h => ?_, fun h => completion_last h⟩
  simp only [exec, execCommandCompletion, h, post_eq]
  rfl

/-! ### Frames (R153, R154) -/

/-- The top bit of a byte is its half (R153). -/
theorem msb_eq (v : Byte) : v.msb = decide (128 ≤ v.toNat) := BitVec.msb_eq_decide v

/-- Settles O45: the falling edge, the first byte and the rising edge. -/
theorem framesBeginAndEnd : Obligations.FramesBeginAndEnd := by
  refine fun s => ⟨fun hc hr => ?_, fun hc hr => ?_, fun hc => congrArg Host.Outcome.next (if_pos hc), fun hf v => ?_, rfl⟩
  · show Host.Outcome.next _ = _
    rw [if_neg (Bool.eq_false_iff.1 hc)]
    exact congrArg Host.Outcome.next (if_neg (Bool.eq_false_iff.1 hr))
  · show Host.Outcome.next _ = _
    rw [if_neg (Bool.eq_false_iff.1 hc)]
    exact congrArg Host.Outcome.next (if_pos hr)
  · have hrow : exec (.addressByte v) s = .next { s with
        port := { s.port with frame := if v.msb then .read else .write, pointer := v.setWidth 7 } } := by
      simp only [exec, execAddressByte, hf]
      rfl
    refine ⟨v.setWidth 7, BitVec.toNat_setWidth .., fun h => ?_, fun h => ?_⟩
    · rw [hrow, msb_eq, decide_eq_false (Nat.not_le.2 h), if_neg Bool.false_ne_true]
    · rw [hrow, msb_eq, decide_eq_true h, if_pos rfl]

/-! ### Full reset (R2, R127, R154) -/

/-- Settles O48: full reset from any state, and its end by the level of RSTN. -/
theorem fullResetAndItsEnd : Obligations.FullResetAndItsEnd := by
  refine fun s => ⟨⟨_, rfl, rfl, fun k => ?_⟩, fun h => congrArg Host.Outcome.next (if_neg (Bool.eq_false_iff.1 h)),
    fun h => ⟨_, congrArg Host.Outcome.next (if_pos h), rfl, fun k => ?_⟩⟩
  · exact fullResetImage_channel _ _ _ _ k
  · exact State.mapChannels_channel _ _ k

/-! ### Rows out of place (log 2) -/

/-- A byte read where none is (log 2). -/
theorem readAt_elsewhere {a : Addr} (h : ¬ ReadsAt s a) : s.readAt a = s := if_neg h

/-- Settles O49: each row looks at the port or at the command in hand first. -/
theorem rowsOutOfPlace : Obligations.RowsOutOfPlace := by
  intro s
  refine ⟨fun hw => ⟨fun c code hc => ?_, fun code => ⟨?_, ?_⟩⟩, fun v hw => ?_, fun v hw => ?_, fun v hw => ?_, fun v hf => ?_,
    fun h => ?_, fun h => ?_, fun h => ?_, fun h => ?_, fun v h => ?_, fun h => ?_, fun h => ?_, fun h => ?_, fun h => ?_,
    fun h => ?_, fun h => ?_, fun hr hs => ?_⟩
  · rw [exec_of_code hc, writeCmdByte_elsewhere hw]
  · exact congrArg Host.Outcome.next (writeCmdByte_elsewhere hw code _)
  · have hcmd : ¬ WritesAt s cmdAddr := hw
    show Host.Outcome.next _ = _
    rw [writeAt_elsewhere hcmd, writeCmdByte_elsewhere hw, ite_self]
  · exact congrArg Host.Outcome.next (writeAt_elsewhere hw _)
  · exact congrArg Host.Outcome.next (writeAt_elsewhere hw _)
  · exact congrArg Host.Outcome.next (writeAt_elsewhere hw _)
  · exact congrArg Host.Outcome.next (if_neg hf)
  · exact congrArg Host.Outcome.next (readAt_elsewhere h)
  · exact congrArg Host.Outcome.next (readAt_elsewhere h)
  · exact congrArg Host.Outcome.next (readAt_elsewhere h)
  · exact congrArg Host.Outcome.next (if_neg h)
  · refine congrArg Host.Outcome.next ?_
    split
    · next hf => exact absurd hf h
    all_goals rfl
  · refine congrArg Host.Outcome.next ?_
    split
    · next g i hw => exact absurd hw (h g i)
    · rfl
  · refine congrArg Host.Outcome.next ?_
    split
    · next g i hw => exact absurd hw (h g i)
    · rfl
  · refine congrArg Host.Outcome.next ?_
    split
    · next g i hw => exact absurd hw (h g i)
    · rfl
  · refine congrArg Host.Outcome.next ?_
    split
    · next i hw => exact absurd hw (h i)
    · rfl
  · refine congrArg Host.Outcome.next ?_
    split
    · next l hw => exact absurd hw (h l)
    · rfl
  · refine congrArg Host.Outcome.next ?_
    split
    · next t e hw => exact absurd hw (h t e)
    · rfl
  · refine congrArg Host.Outcome.next ?_
    split
    · next r hw => exact absurd hw (hr r)
    · next hw => exact absurd hw (hs _)
    · next hw => exact absurd hw (hs _)
    · rfl

end Machine

end Sys2Proof.Machine
end

section
/-! What is written: the descriptor that a staging record stands for (R12, R161), and a byte of a write frame at every address of
the register map (R155, R160). -/

namespace Sys2Proof.Machine

section StagedDescriptors
variable {d : Descriptor}

/-- The late policy of the bit that codes it. -/
theorem latePolicyOf_latePolicyCode (p : LatePolicy) : latePolicyOf (latePolicyCode p) = p := by cases p <;> decide

/-- The auto-release flag of the bit that codes it. -/
theorem ofBool_beq_one_eq (b : Bool) : (BitVec.ofBool b == 1) = b := by cases b <;> rfl

/-- The record that a descriptor is written in has the codes of its fields. -/
theorem readsAs_stagingOf (d : Descriptor) : ReadsAs (stagingOf d) d.action d.line d.notify d.chain := ⟨rfl, rfl, rfl, rfl⟩

/-- A group reads back from its three bits. -/
theorem toNat_ofNat_group (g : GroupId) : (BitVec.ofNat 3 g.val).toNat = g.val :=
  (BitVec.toNat_ofNat ..).trans (Nat.mod_eq_of_lt g.isLt)

/-- The descriptor read from the record it is written in, but for a chain offset without a chain (R3). -/
theorem descriptorFrom_stagingOf (h : d.chain = none → d.chainOffset = 0) :
    descriptorFrom (stagingOf d) d.action d.line d.notify d.chain = d := by
  have hoffset : (if d.chain.isNone then 0 else d.chainOffset) = d.chainOffset := by
    split
    · next hn => exact (h (Option.isNone_iff_eq_none.1 hn)).symm
    · rfl
  have hgroup : (⟨(BitVec.ofNat 3 d.group.val).toNat, (BitVec.ofNat 3 d.group.val).isLt⟩ : GroupId) = d.group :=
    Fin.ext (toNat_ofNat_group d.group)
  simp only [descriptorFrom, stagingOf, latePolicyOf_latePolicyCode, ofBool_beq_one_eq, hoffset, hgroup]

/-- Settles O50: the codes of a descriptor are read as its fields, and its four checks across fields are those of R12. -/
theorem stagedDescriptorReadsBack : Obligations.StagedDescriptorReadsBack := by
  rintro d ⟨hline, hwidth, hpulse, hchain⟩
  have hoffset : (d.chain.isNone || d.chainOffset != 0) = true := by
    rw [Bool.or_eq_true, Option.isNone_iff_eq_none, hchain, bne_iff_ne]
    exact em _
  have hpass : PassesR12 (stagingOf d) := by
    refine (passesR12_iff_of_readsAs (readsAs_stagingOf d)).2 ?_
    simp only [stagingOf, hline, hpulse, hoffset, bne_iff_ne.2 hwidth, Bool.and_self]
  refine ⟨hpass, ?_⟩
  rw [(descriptorOf_of_readsAs (readsAs_stagingOf d)).1 hpass, descriptorFrom_stagingOf hchain.1]

end StagedDescriptors

section Writes
variable {s : State}

/-- A read-only byte, a port or 0x7F ignores the write (R157, R160). -/
theorem writeByte_readOnly {a : Nat} (v : Byte)
    (h : a ≤ 0x03 ∨ 0x21 ≤ a ∧ a ≤ 0x40 ∨ 0x44 ≤ a ∧ a ≤ 0x4D ∨ 0x54 ≤ a ∧ a ≤ 0x5E ∨ 0x68 ≤ a) : s.writeByte a v = s := by
  simp (disch := omega) only [State.writeByte, if_neg]

/-- A byte of ARG takes its value (R140). -/
theorem writeByte_arg (k : Fin 8) (v : Byte) :
    s.writeByte (0x06 + k.val) v = s.withCmd { s.cmd with args := s.cmd.args.set k v } := by
  have hk := k.isLt
  simp (disch := omega) only [State.writeByte, if_neg, if_pos, Nat.add_sub_cancel_left, State.writeArg, dif_pos]

/-- A lower byte of a multi-byte field goes to its holding byte alone (R155). -/
theorem writeByte_held {a : Nat} (v : Byte) (h : 0x11 ≤ a ∧ a ≤ 0x13 ∨ 0x15 ≤ a ∧ a ≤ 0x16 ∨ a = 0x18 ∨ a = 0x1A ∨
    0x1E ≤ a ∧ a ≤ 0x1F ∨ 0x41 ≤ a ∧ a ≤ 0x42 ∨ 0x4E ≤ a ∧ a ≤ 0x52 ∨ 0x5F ≤ a ∧ a ≤ 0x61 ∨ a = 0x65) :
    s.writeByte a v = s.withHold (heldAfter s.window.hold a v) := by
  obtain ⟨hlo, hhi⟩ | ⟨hlo, hhi⟩ | rfl | rfl | ⟨hlo, hhi⟩ | ⟨hlo, hhi⟩ | ⟨hlo, hhi⟩ | ⟨hlo, hhi⟩ | rfl := h
  case inr.inr.inl => rfl
  case inr.inr.inr.inl => rfl
  case inr.inr.inr.inr.inr.inr.inr.inr => rfl
  all_goals interval_cases a <;> rfl

/-- The marker select is a bit from 8 to 31, or OFF (R103). -/
theorem markerOf_eq (v : Byte) :
    markerOf v = if h : 8 ≤ v.toNat ∧ v.toNat ≤ 31 then some ⟨v.toNat, by omega⟩ else none := by
  by_cases h : 8 ≤ v.toNat ∧ v.toNat ≤ 31
  · rw [dif_pos h, markerOf, dif_pos ⟨h.1, Nat.lt_succ_of_le h.2⟩]
  · rw [dif_neg h, markerOf, dif_neg fun h' => h ⟨h'.1, Nat.le_of_lt_succ h'.2⟩]

/-- The watermark lies from 1 to 16 (R123). -/
theorem watermarkOf_eq (v : Byte) : watermarkOf v = if v.toNat = 0 then 1 else if 16 < v.toNat then 16 else v.toNat := by
  unfold watermarkOf
  split <;> [skip; split] <;> omega

/-- REGISTER_WRITE does what the row of a byte with an effect of its own does (log 3). -/
theorem registerWrite_row {a n : Nat} {x : Addr} {v : Byte} {c : Instr} {act : State → State} (hf : s.port.frame = .write)
    (hp : s.port.pointer.toNat = a) (ha : a = n) (hx : x.toNat = n) (hc : exec c s = .next (s.writeAt x act))
    (hact : s.writeByte n v = act s) : exec (.registerWrite v) s = exec c s := by
  subst ha
  rw [exec_registerWrite hf hp v, hact, hc, writeAt_eq (writesAt_of_toNat hf hp hx)]

/-- Settles O46: the addresses of R160 by their ranges, each with its effect. -/
theorem registerWrites : Obligations.RegisterWrites := by
  rintro s v a held hf hp rfl
  have hwrite := exec_registerWrite hf hp v
  refine ⟨fun h => ?_, fun h => ?_, fun h => ?_, fun k h => ?_, fun h => ⟨fun c hc => ?_, fun _ => ?_⟩, fun h => ?_,
    fun h => ?_, fun h => ?_, fun h => ?_, fun h => ?_, fun h => ?_, fun h => ?_, fun h => ?_, fun h => ?_, fun h => ?_,
    fun h => ?_, fun h => ?_, fun h => ?_, fun h => ?_, fun h => ?_, fun h => ?_, fun h => ?_⟩
  case refine_1 => rw [hwrite, writeByte_readOnly v h]; rfl
  case refine_4 => subst h; rw [hwrite, writeByte_arg]; rfl
  case refine_5 => subst h; rw [exec_registerWrite_cmd (writesAt_of_toNat hf hp rfl), exec_of_code hc]
  case refine_6 => subst h; exact exec_registerWrite_cmd (writesAt_of_toNat hf hp rfl) v
  case refine_11 => rw [hwrite, writeByte_held v h]; rfl
  case refine_18 => subst h; rw [hwrite, ← markerOf_eq]; rfl
  case refine_20 => subst h; rw [hwrite, ← watermarkOf_eq]; rfl
  case refine_21 => exact registerWrite_row hf hp h rfl rfl rfl
  case refine_22 => exact registerWrite_row hf hp h rfl rfl rfl
  case refine_23 => exact registerWrite_row hf hp h rfl rfl rfl
  all_goals subst h; exact hwrite

end Writes

end Sys2Proof.Machine
end

section
/-! The ports (07, 08): the pops, FLUSH_CAPTURE, and the bytes of the two records that the ports show (R125, R126, R135, R163,
R164). -/

namespace Sys2Proof.Machine

/-! ### Bytes of words and of records -/

section Bytes

/-- An element of a record, read from its list. -/
theorem toList_getD {α : Type} {n : Nat} (x : Vector α n) (k : Fin n) (d : α) : x.toList.getD k.val d = x[k] := by
  simp [List.getD_eq_getElem?_getD]

/-- A byte above the bits below it. -/
theorem byteOf_append {w len : Nat} (x : BitVec w) (k : Nat) :
    x.extractLsb' (8 * (k + 1)) len ++ byteOf x k = x.extractLsb' (8 * k) (len + 8) := by
  rw [byteOf_eq]
  exact BitVec.extractLsb'_append_extractLsb'_eq_extractLsb' (Nat.mul_succ 8 k)

/-- The two bytes of a word. -/
theorem bytes16 (x : BitVec 16) : byteOf x 1 ++ byteOf x 0 = x := by
  rw [byteOf_eq x 1, byteOf_append x 0]
  exact BitVec.extractLsb'_eq_self

/-- The three bytes of a word. -/
theorem bytes24 (x : BitVec 24) : byteOf x 2 ++ byteOf x 1 ++ byteOf x 0 = x := by
  rw [byteOf_eq x 2, byteOf_append x 1, byteOf_append x 0]
  exact BitVec.extractLsb'_eq_self

/-- The four bytes of a word. -/
theorem bytes32 (x : BitVec 32) : byteOf x 3 ++ byteOf x 2 ++ byteOf x 1 ++ byteOf x 0 = x := by
  rw [byteOf_eq x 3, byteOf_append x 2, byteOf_append x 1, byteOf_append x 0]
  exact BitVec.extractLsb'_eq_self

/-- A small number in a word of enough bits. -/
theorem toNat_ofNat_fin {n w : Nat} (i : Fin n) (h : n ≤ 2 ^ w) : (BitVec.ofNat w i.val).toNat = i.val :=
  (BitVec.toNat_ofNat ..).trans (Nat.mod_eq_of_lt (Nat.lt_of_lt_of_le i.isLt h))

end Bytes

/-! ### The records of R163 and R164 -/

section Records

/-- The empty record of the capture port (R126). -/
theorem captureImage_none :
    ∀ x : Vector Byte 6, x = captureImage ⟨none, 0⟩ → x[0] = 0xFF ∧ ∀ k : Fin 6, k.val ≠ 0 → x[k] = 0 := by
  rintro x rfl
  exact ⟨rfl, by decide⟩

/-- The record of a capture (R164). -/
theorem captureImage_some (r : CaptureRecord) (left : Nat) (x : Vector Byte 6) (hx : x = captureImage ⟨some r, left⟩) :
    x[0].toNat = r.channel.val ∧ (x[1].getLsbD 0 = true ↔ r.edge = .fall) ∧ x[1].extractLsb' 4 4 = BitVec.ofNat 4 left
      ∧ x[5] ++ x[4] ++ x[3] ++ x[2] = r.stamp := by
  subst hx
  refine ⟨toNat_ofNat_fin r.channel (by decide), ?_, ?_, bytes32 r.stamp⟩
  · show (BitVec.ofNat 4 left ++ 0#3 ++ edgeCode r.edge).getLsbD 0 = true ↔ _
    rw [BitVec.getLsbD_append, if_pos (by decide)]
    cases r.edge <;> decide
  · show (BitVec.ofNat 4 left ++ 0#3 ++ edgeCode r.edge).extractLsb' 4 4 = _
    rw [BitVec.extractLsb'_append_eq_of_le (by decide)]
    exact BitVec.extractLsb'_append_eq_left

/-- The empty entry of the notification port (R135). -/
theorem notificationImage_none : ∀ x : Vector Byte 12, x = notificationImage none →
    x[0] = 0 ∧ x[1] = 0xFF ∧ x[2] = 0xFF ∧ x[3] = 0xFF ∧ ∀ k : Fin 12, 4 ≤ k.val → x[k] = 0 := by
  rintro x rfl
  exact ⟨rfl, rfl, rfl, rfl, by decide⟩

/-- The first four bytes of an entry are those of its kind (R163). -/
theorem notificationImage_head (n : Notification) {k : Nat} (hk : k < 4) :
    (notificationImage (some n))[k] = n.body.headBytes[k] := Vector.getElem_append_left hk

/-- The other bytes of an entry are its stamp and its aux word (R163). -/
theorem notificationImage_tail (n : Notification) {k : Nat} (hk : k < 8) : (notificationImage (some n))[4 + k] =
    (#v[byteOf n.stamp 0, byteOf n.stamp 1, byteOf n.stamp 2, byteOf n.stamp 3, byteOf n.body.auxWord 0,
      byteOf n.body.auxWord 1, byteOf n.body.auxWord 2, byteOf n.body.auxWord 3])[k] := by
  simp only [notificationImage, Vector.getElem_append_right (Nat.add_lt_add_left hk 4) (Nat.le_add_right 4 k),
    Nat.add_sub_cancel_left]

/-- The stamp of an entry (R163). -/
theorem notificationImage_stamp (n : Notification) (x : Vector Byte 12) (hx : x = notificationImage (some n)) :
    x[7] ++ x[6] ++ x[5] ++ x[4] = n.stamp := by
  subst hx
  rw [notificationImage_tail n (k := 3) (by decide), notificationImage_tail n (k := 2) (by decide),
    notificationImage_tail n (k := 1) (by decide), notificationImage_tail n (k := 0) (by decide)]
  exact bytes32 n.stamp

/-- The aux word of an entry (R163). -/
theorem notificationImage_aux (n : Notification) (x : Vector Byte 12) (hx : x = notificationImage (some n)) :
    x[11] ++ x[10] ++ x[9] ++ x[8] = n.body.auxWord := by
  subst hx
  rw [notificationImage_tail n (k := 7) (by decide), notificationImage_tail n (k := 6) (by decide),
    notificationImage_tail n (k := 5) (by decide), notificationImage_tail n (k := 4) (by decide)]
  exact bytes32 n.body.auxWord

/-- Byte 0 of a FIRE entry (R163). -/
theorem fireByte0 (last : Bool) (i : SlotId) (b : Byte) (hb : b = 1#1 ++ BitVec.ofBool last ++ BitVec.ofNat 6 i.val) :
    b.getLsbD 7 = true ∧ b.getLsbD 6 = last ∧ (b.extractLsb' 0 6).toNat = i.val := by
  subst hb
  simp only [BitVec.getLsbD_append, BitVec.extractLsb'_append_eq_right]
  refine ⟨rfl, by cases last <;> rfl, ?_⟩
  exact toNat_ofNat_fin i (by decide)

/-- Byte 1 of a FIRE entry, by its three fields (R163). -/
theorem fireByte1 (late : Bool) (code : BitVec 3) (line : BitVec 4) (b : Byte) (hb : b = BitVec.ofBool late ++ code ++ line) :
    b.getLsbD 7 = late ∧ b.extractLsb' 4 3 = code ∧ b.extractLsb' 0 4 = line := by
  subst hb
  refine ⟨by simp only [BitVec.getLsbD_append]; cases late <;> rfl, ?_, BitVec.extractLsb'_append_eq_right⟩
  rw [BitVec.extractLsb'_append_eq_of_le (by decide)]
  exact BitVec.extractLsb'_append_eq_right

/-- The bytes of a FIRE entry (R163). -/
theorem notificationImage_fire {stamp : Tick} (r : FireReport) (x : Vector Byte 12)
    (hx : x = notificationImage (some ⟨stamp, .fire r⟩)) :
    x[0].getLsbD 7 = true ∧ x[0].getLsbD 6 = r.last ∧ (x[0].extractLsb' 0 6).toNat = r.slot.val
      ∧ x[1].getLsbD 7 = r.late ∧ x[3] ++ x[2] = r.skips ∧ x[1].extractLsb' 4 3 = outcomeCode r.line r.outcome
      ∧ x[1].extractLsb' 0 4 = lineCode4 r.line := by
  subst hx
  obtain ⟨h7, h6, hslot⟩ := fireByte0 r.last r.slot _ rfl
  obtain ⟨hlate, hcode, hline⟩ := fireByte1 r.late (outcomeCode r.line r.outcome) (lineCode4 r.line) _ rfl
  exact ⟨h7, h6, hslot, hlate, bytes16 r.skips, hcode, hline⟩

end Records

/-! ### The pops and the latches (R125, R126, R135) -/

section Ports
variable {s : State}

/-- The read of a byte other than STATUS: its latch or pop, then the byte (R156). -/
theorem readByte_eq {a : Nat} (hp : s.port.pointer.toNat = a) (ha : a ≠ 0x02) : s.readByte =
    ((s.latchAt a).withPort { (s.latchAt a).port with sdo := some ((s.latchAt a).byteAt a) }).advance := by
  simp only [State.readByte, hp, if_neg ha]

/-- The row of one byte's read. -/
theorem readAt_eq {a : Addr} (h : ReadsAt s a) : s.readAt a = s.readByte := if_pos h

/-- A pop of the capture port (R125). -/
theorem exec_capturePop (h : ReadsAt s 0x79) : exec .capturePop s = .next
    (s.popCapture.withPort { s.popCapture.port with sdo := some (s.popCapture.byteAt 0x79) }).advance :=
  congrArg Host.Outcome.next ((readAt_eq h).trans (readByte_eq (congrArg BitVec.toNat h.2) (by decide)))

/-- A pop of the notification port (R135). -/
theorem exec_notificationPop (h : ReadsAt s 0x6D) : exec .notificationPop s = .next
    (s.popNotification.withPort { s.popNotification.port with sdo := some (s.popNotification.byteAt 0x6D) }).advance :=
  congrArg Host.Outcome.next ((readAt_eq h).trans (readByte_eq (congrArg BitVec.toNat h.2) (by decide)))

/-- A byte of the notification port reads from its latch (R135). -/
theorem byteAt_notification (k : Fin 12) : s.byteAt (0x6D + k.val) = (notificationImage s.queue.latch)[k] := by
  have hk := k.isLt
  simp (disch := omega) only [State.byteAt, if_neg, if_pos, Nat.add_sub_cancel_left, toList_getD]

/-- A byte of the capture port reads from its latch (R125). -/
theorem byteAt_capture (k : Fin 6) : s.byteAt (0x79 + k.val) = (captureImage s.capture.latch)[k] := by
  have hk := k.isLt
  simp (disch := omega) only [State.byteAt, if_neg, if_pos, Nat.add_sub_cancel_left, toList_getD]

/-- The pops of the capture port. -/
theorem capturePop_pops (h : ReadsAt s 0x79) :
    (s.capture.fifo = [] → exec .capturePop s = .next { s with
        capture := { s.capture with latch := ⟨none, 0⟩ }, port := { portPast s with sdo := some 0xFF } })
      ∧ ∀ r rest, s.capture.fifo = r :: rest → exec .capturePop s = .next { s with
        capture := { s.capture with fifo := rest, latch := ⟨some r, rest.length⟩ }
        port := { portPast s with sdo := some (BitVec.ofNat 8 r.channel.val) } } := by
  rw [exec_capturePop h]
  refine ⟨fun hf => ?_, fun r rest hf => ?_⟩
  · have hpop : s.popCapture = s.withCapture { s.capture with latch := ⟨none, 0⟩ } := by simp only [State.popCapture, hf]
    rw [hpop]
    rfl
  · have hpop : s.popCapture = s.withCapture { s.capture with fifo := rest, latch := ⟨some r, rest.length⟩ } := by
      simp only [State.popCapture, hf]
    rw [hpop]
    rfl

/-- The pops of the notification port. -/
theorem notificationPop_pops (h : ReadsAt s 0x6D) :
    (s.queue.entries = [] → exec .notificationPop s = .next { s with
        queue := { s.queue with latch := none }, port := { portPast s with sdo := some 0x00 } })
      ∧ ∀ n rest, s.queue.entries = n :: rest → exec .notificationPop s = .next { s with
        queue := { s.queue with entries := rest, latch := some n }
        port := { portPast s with sdo := some (notificationImage (some n))[0] } } := by
  rw [exec_notificationPop h]
  refine ⟨fun hf => ?_, fun n rest hf => ?_⟩
  · have hpop : s.popNotification = s.withQueue { s.queue with latch := none } := by simp only [State.popNotification, hf]
    rw [hpop]
    rfl
  · have hpop : s.popNotification = s.withQueue { s.queue with entries := rest, latch := some n } := by
      simp only [State.popNotification, hf]
    have hbyte : (s.withQueue { s.queue with entries := rest, latch := some n }).byteAt 0x6D
        = (notificationImage (some n))[0] := byteAt_notification (s := s.withQueue _) 0
    rw [hpop, hbyte]
    rfl

/-- FLUSH_CAPTURE empties the FIFO (R126). -/
theorem flushCapture_empties (h : TakesCommand s) : exec .flushCapture s = .next { answered s 0x38 .ok with
    capture := { s.capture with fifo := [] } } := by
  refine congrArg Host.Outcome.next ?_
  rw [writeCmdByte_taken h]
  rfl

/-- A byte behind the first of the notification port (R135). -/
theorem latchRead_notification (k : Fin 12) (hk : k.val ≠ 0) (hf : s.port.frame = .read)
    (hp : s.port.pointer.toNat = 0x6D + k.val) : exec .latchRead s = .next { s with
      port := { portPast s with sdo := some (notificationImage s.queue.latch)[k] } } := by
  have hplain : 0x6D + k.val ∉ [0x02, 0x44, 0x4E, 0x54, 0x59, 0x68, 0x6D, 0x79] := by
    simp only [List.mem_cons, List.not_mem_nil, or_false, not_or]
    omega
  rw [latchRead_plain hf hp hplain, byteAt_notification]

/-- A byte behind the first of the capture port (R125). -/
theorem latchRead_capture (k : Fin 6) (hk : k.val ≠ 0) (hf : s.port.frame = .read)
    (hp : s.port.pointer.toNat = 0x79 + k.val) : exec .latchRead s = .next { s with
      port := { portPast s with sdo := some (captureImage s.capture.latch)[k] } } := by
  have hplain : 0x79 + k.val ∉ [0x02, 0x44, 0x4E, 0x54, 0x59, 0x68, 0x6D, 0x79] := by
    simp only [List.mem_cons, List.not_mem_nil, or_false, not_or]
    omega
  rw [latchRead_plain hf hp hplain, byteAt_capture]

/-- Settles O39: the pops, FLUSH_CAPTURE and the latched bytes, then the records kind by kind. -/
theorem popsAndFlush : Obligations.PopsAndFlush := by
  refine ⟨fun s => capturePop_pops, fun s => notificationPop_pops, fun s => flushCapture_empties,
    fun s => latchRead_notification, fun s => latchRead_capture, captureImage_none, captureImage_some,
    notificationImage_none, ?_⟩
  rintro ⟨stamp, body⟩ x aux hx haux
  have hword : aux = body.auxWord := haux.trans (notificationImage_aux _ x hx)
  have h0 : x[0] = body.headBytes[0] := hx ▸ notificationImage_head _ (by decide)
  have h1 : x[1] = body.headBytes[1] := hx ▸ notificationImage_head _ (by decide)
  have h2 : x[2] = body.headBytes[2] := hx ▸ notificationImage_head _ (by decide)
  have h3 : x[3] = body.headBytes[3] := hx ▸ notificationImage_head _ (by decide)
  refine ⟨notificationImage_stamp _ x hx, ?_, ?_, ?_, ?_, ?_, ?_, ?_, ?_, ?_, ?_, ?_, ?_, ?_, ?_⟩
  case refine_1 =>
    rintro r rfl
    obtain ⟨h7, h6, hslot, hlate, hskips, hcode, hline⟩ := notificationImage_fire r x hx
    refine ⟨h7, h6, hslot, hlate, hskips, hword, fun l hl => ⟨?_, fun ho => ?_, fun ho => ?_⟩,
      fun hl => ⟨?_, fun ho => ?_, fun ho => ?_⟩, fun ho => ?_, fun ho => ?_, fun ho => ?_⟩
    · rw [hline, hl]; exact toNat_ofNat_fin l (by decide)
    · rw [hcode, hl, ho]; rfl
    · rw [hcode, hl, ho]; rfl
    · rw [hline, hl]; rfl
    · rw [hcode, hl, ho]; rfl
    · rw [hcode, hl, ho]; rfl
    all_goals rw [hcode, ho]; rfl
  case refine_2 =>
    rintro i j rfl
    exact ⟨h0, h1 ▸ toNat_ofNat_fin i (by decide), h2, h3, hword ▸ toNat_ofNat_fin j (by decide)⟩
  case refine_3 =>
    rintro i k rfl
    exact ⟨h0, h1 ▸ toNat_ofNat_fin i (by decide), h2, h3 ▸ toNat_ofNat_fin k (by decide), hword⟩
  case refine_4 => rintro l rfl; exact ⟨h0, h1, h2 ▸ toNat_ofNat_fin l (by decide), h3, hword⟩
  case refine_5 => rintro l rfl; exact ⟨h0, h1, h2 ▸ toNat_ofNat_fin l (by decide), h3, hword⟩
  case refine_6 => rintro rfl; exact ⟨h0, h1, h2, h3, hword⟩
  case refine_7 => rintro old rfl; exact ⟨h0, h1, h2, h3, hword⟩
  case refine_8 => rintro count rfl; exact ⟨h0, h1, h2, h3, hword⟩
  case refine_9 => rintro k rfl; exact ⟨h0, h1, h2, h3 ▸ toNat_ofNat_fin k (by decide), hword⟩
  case refine_10 =>
    rintro source rfl
    refine ⟨h0, h1, h2, h3, hword.trans ?_⟩
    cases source <;> rfl
  case refine_11 => rintro rfl; exact ⟨h0, h1, h2, h3, hword⟩
  case refine_12 => rintro rfl; exact ⟨h0, h1, h2, h3, hword⟩
  case refine_13 =>
    rintro code result rfl
    refine ⟨h0, h1, h2, h3, hword ▸ BitVec.extractLsb'_append_eq_right, ?_⟩
    rw [hword]
    exact (BitVec.extractLsb'_append_eq_of_le (by decide)).trans BitVec.extractLsb'_append_eq_right
  case refine_14 =>
    rintro lost rfl
    exact ⟨h0, by rw [h2, h1]; exact bytes16 lost, h3, hword⟩

end Ports

end Sys2Proof.Machine
end

section
/-! What the register window reads (10): the fields that the bytes of R158 to R162 are packed from, and the read of every
address (R156). -/

namespace Sys2Proof.Machine

/-! ### Packed bytes (R158, R160 to R162) -/

section PackedBytes

/-- Eight flags in a byte, the last named in bit 0. -/
theorem eightFlags {b7 b6 b5 b4 b3 b2 b1 b0 : Bool} {x : Byte}
    (hx : x = BitVec.ofBool b7 ++ BitVec.ofBool b6 ++ BitVec.ofBool b5 ++ BitVec.ofBool b4 ++ BitVec.ofBool b3
      ++ BitVec.ofBool b2 ++ BitVec.ofBool b1 ++ BitVec.ofBool b0) :
    x.getLsbD 0 = b0 ∧ x.getLsbD 1 = b1 ∧ x.getLsbD 2 = b2 ∧ x.getLsbD 3 = b3
      ∧ x.getLsbD 4 = b4 ∧ x.getLsbD 5 = b5 ∧ x.getLsbD 6 = b6 ∧ x.getLsbD 7 = b7 := by
  subst hx
  simp only [BitVec.getLsbD_append, BitVec.getLsbD_ofBool]
  simp

/-- A switch is pending where the Clock Unit names one (R107). -/
theorem isPending_eq (w : SwitchState) : w.isPending = decide (w ≠ .none) := by cases w <;> rfl

/-- Byte 0 of the line status window, by its fields (R162). -/
theorem lineStatByte0_fields (l : Line) (locked : Bool) (x : Byte) (hx : x = lineStatByte0 l locked) :
    x.extractLsb' 0 2 = modeCode l.mode ∧ x.extractLsb' 2 2 = heldCode l.mode ∧ (x.getLsbD 4 = true ↔ l.level = .active)
      ∧ x.getLsbD 5 = l.driven ∧ x.getLsbD 6 = locked := by
  subst hx
  unfold lineStatByte0
  refine ⟨BitVec.extractLsb'_append_eq_right, ?_, ?_, ?_, ?_⟩
  · rw [BitVec.extractLsb'_append_eq_of_le (by decide)]
    exact BitVec.extractLsb'_append_eq_right
  all_goals simp only [BitVec.getLsbD_append, BitVec.getLsbD_ofBool]
  all_goals simp

/-- Byte 0 of the channel configuration window, by its fields (R162). -/
theorem capCfgByte0_fields (c : Channel) (level : Bool) (x : Byte) (hx : x = capCfgByte0 c level) :
    x.extractLsb' 0 2 = edgeSelectCode c.edge ∧ x.getLsbD 4 = c.filter.isQualifying ∧ x.getLsbD 5 = c.filter.stableLevel
      ∧ x.getLsbD 6 = level := by
  subst hx
  unfold capCfgByte0
  refine ⟨BitVec.extractLsb'_append_eq_right, ?_, ?_, ?_⟩
  all_goals simp only [BitVec.getLsbD_append, BitVec.getLsbD_ofBool]
  all_goals simp

/-- Byte 0 of the line configuration window, by its fields (R162). -/
theorem lineConfigByte_fields (c : LineConfig) (x : Byte) (hx : x = lineConfigByte c 0) :
    x.getLsbD 0 = c.enabled ∧ (x.getLsbD 1 = true ↔ c.polarity = .activeLow) ∧ (x.getLsbD 2 = true ↔ c.drive = .openDrain)
      ∧ x.extractLsb' 3 2 = safeLevelCode c.safe := by
  subst hx
  rw [lineConfigByte, if_pos rfl]
  refine ⟨?_, ?_, ?_, ?_⟩
  case refine_4 =>
    rw [BitVec.extractLsb'_append_eq_of_le (by decide), BitVec.extractLsb'_append_eq_of_le (by decide),
      BitVec.extractLsb'_append_eq_of_le (by decide)]
    exact BitVec.extractLsb'_append_eq_right
  all_goals simp only [BitVec.getLsbD_append, BitVec.getLsbD_ofBool]
  all_goals simp

/-- CTRL, by its fields (R160). -/
theorem ctrlByte_fields (s : State) :
    (ctrlByte s).getLsbD 0 = s.timebase.syncEnable ∧ (ctrlByte s).getLsbD 1 = s.queue.irqEnable ∧ ((ctrlByte s).extractLsb' 2 4).toNat = s.timebase.prescaler.val
    ∧ ((ctrlByte s).getLsbD 6 = true ↔ s.clock.source = .ext) := by
  unfold ctrlByte
  refine ⟨?_, ?_, ?_, ?_⟩
  case refine_3 =>
    rw [BitVec.extractLsb'_append_eq_of_le (by decide), BitVec.extractLsb'_append_eq_of_le (by decide),
      BitVec.extractLsb'_append_eq_right]
    exact toNat_ofNat_fin _ (by decide)
  case refine_4 =>
    simp only [BitVec.getLsbD_append]
    cases s.clock.source <;> simp [sourceCode]
  all_goals simp only [BitVec.getLsbD_append, BitVec.getLsbD_ofBool]
  all_goals simp

/-- The bits of POSTMASK behind its thirteen read 0 (R160). -/
theorem postMaskByte_top (x : BitVec 13) : (byteOf (x.setWidth 16) 1).extractLsb' 0 5 = x.extractLsb' 8 5
    ∧ (byteOf (x.setWidth 16) 1).extractLsb' 5 3 = 0 := by
  rw [byteOf_eq]
  constructor
  · ext i hi
    have h8 : i < 8 := by omega
    have h16 : 8 + i < 16 := by omega
    simp [h8, h16]
  · ext i hi
    simp only [BitVec.getElem_extractLsb', BitVec.getLsbD_extractLsb', BitVec.getLsbD_setWidth,
      BitVec.getLsbD_of_ge x (8 * 1 + (5 + i)) (by omega), Bool.and_false]
    simp

/-- The low byte of POSTMASK (R160). -/
theorem postMaskByte_low (x : BitVec 13) : byteOf (x.setWidth 16) 0 = x.extractLsb' 0 8 := by
  rw [byteOf_eq]
  ext i hi
  simp
  omega

/-- The staging layout's bytes `f` as its fields read them (R161). -/
def StagedFields (r : Staging) (f : Nat → Byte) : Prop :=
  ((f 0).extractLsb' 0 3 = r.action ∧ (f 0).extractLsb' 3 1 = r.late ∧ (f 0).extractLsb' 4 2 = r.notify)
    ∧ ∀ k, 0 < k → k < 18 → f k = stagingByte r k

/-- Byte 0 of the staging layout (R161). -/
theorem stagingByte_fields (r : Staging) (x : Byte) (hx : x = stagingByte r 0) : x.extractLsb' 0 3 = r.action
    ∧ x.extractLsb' 3 1 = r.late ∧ x.extractLsb' 4 2 = r.notify ∧ x.extractLsb' 6 2 = 0 := by
  subst hx
  rw [stagingByte, if_pos rfl]
  refine ⟨BitVec.extractLsb'_append_eq_right, ?_, ?_, ?_⟩
  · rw [BitVec.extractLsb'_append_eq_of_le (by decide)]
    exact BitVec.extractLsb'_append_eq_right
  · rw [BitVec.extractLsb'_append_eq_of_le (by decide), BitVec.extractLsb'_append_eq_of_le (by decide)]
    exact BitVec.extractLsb'_append_eq_right
  · rw [BitVec.extractLsb'_append_eq_of_le (by decide), BitVec.extractLsb'_append_eq_of_le (by decide)]
    exact BitVec.extractLsb'_append_eq_left

/-- The staging record reads in its own layout. -/
theorem stagedFields_staging (r : Staging) : StagedFields r (stagingByte r) := by
  obtain ⟨haction, hlate, hnotify, -⟩ := stagingByte_fields r _ rfl
  exact ⟨⟨haction, hlate, hnotify⟩, fun _ _ _ => rfl⟩

/-- A slot state above the six bits below it (R161). -/
theorem stateCode_fields (c : BitVec 2) (x : Byte) (hx : x = c.setWidth 8 <<< 6) : x.extractLsb' 0 3 = 0
    ∧ x.extractLsb' 3 1 = 0 ∧ x.extractLsb' 4 2 = 0 ∧ x.extractLsb' 6 2 = c := by
  subst hx
  revert c
  decide

/-- The readback record reads in the layout of the staging record, the slot's state in bits 7:6 of byte 0 (R161). -/
theorem stagedFields_readback (r : Slot) : StagedFields (stagingOf r.desc) (readbackByte r)
    ∧ (readbackByte r 0).extractLsb' 6 2 = slotStateCode r.state := by
  obtain ⟨haction, hlate, hnotify, htop⟩ := stagingByte_fields (stagingOf r.desc) _ rfl
  obtain ⟨h0, h3, h4, h6⟩ := stateCode_fields (slotStateCode r.state) _ rfl
  refine ⟨⟨?_, fun k hlo hhi => ?_⟩, ?_⟩
  · rw [readbackByte, if_pos rfl]
    simp only [BitVec.extractLsb'_or, haction, hlate, hnotify, h0, h3, h4]
    exact ⟨BitVec.or_zero, BitVec.or_zero, BitVec.or_zero⟩
  · rw [readbackByte, if_neg (Nat.ne_of_gt hlo), if_pos hhi]
  · rw [readbackByte, if_pos rfl]
    simp only [BitVec.extractLsb'_or, htop, h6]
    exact BitVec.zero_or

end PackedBytes

/-! ### The windows that a lowest byte latches (R162) -/

section Images

/-- A slot number, or NONE 0xFF (R162). -/
theorem toNat_slotByte (i : SlotId) : (slotByte (some i)).toNat = i.val := toNat_ofNat_fin i (by decide)

/-- The line status window, by its fields (R76, R162). -/
theorem lineStatImage_fields (l : Line) (locked : Bool) (x : Vector Byte 10) (hx : x = lineStatImage l locked) :
    (l.mode = .off → x[0].extractLsb' 0 2 = 0 ∧ x[0].extractLsb' 2 2 = 0)
      ∧ (l.mode = .normal → x[0].extractLsb' 0 2 = 1 ∧ x[0].extractLsb' 2 2 = 0)
      ∧ (l.mode = .tripped → x[0].extractLsb' 0 2 = 2 ∧ x[0].extractLsb' 2 2 = 0)
      ∧ (l.mode = .forced .normal → x[0].extractLsb' 0 2 = 3 ∧ x[0].extractLsb' 2 2 = 1)
      ∧ (l.mode = .forced .tripped → x[0].extractLsb' 0 2 = 3 ∧ x[0].extractLsb' 2 2 = 2)
      ∧ (x[0].getLsbD 4 = true ↔ l.level = .active) ∧ x[0].getLsbD 5 = l.driven
      ∧ x[0].getLsbD 6 = locked
      ∧ (l.pulse = none → x[1] = 0xFF ∧ x[5] ++ x[4] ++ x[3] ++ x[2] = (0 : BitVec 32))
      ∧ (∀ p, l.pulse = some p → x[1].toNat = p.owner.val ∧ x[5] ++ x[4] ++ x[3] ++ x[2] = p.release)
      ∧ x[6] = BitVec.ofNat 8 l.current.count ∧ (l.next = none → x[7] = 0)
      ∧ (∀ p, l.next = some p → x[7] = BitVec.ofNat 8 p.count) ∧ x[9] ++ x[8] = l.guardCount := by
  obtain ⟨hmode, hheld, hlevel, hdriven, hlocked⟩ := lineStatByte0_fields l locked x[0] (by rw [hx]; rfl)
  have howner : x[1] = slotByte (l.pulse.map Pulse.owner) := hx ▸ rfl
  have hrelease : x[5] ++ x[4] ++ x[3] ++ x[2] = releaseShown l := hx ▸ bytes32 (releaseShown l)
  have hnext : x[7] = BitVec.ofNat 8 (nextLength l) := hx ▸ rfl
  have modes {m : LineMode} (hm : l.mode = m) : x[0].extractLsb' 0 2 = modeCode m ∧ x[0].extractLsb' 2 2 = heldCode m :=
    ⟨hm ▸ hmode, hm ▸ hheld⟩
  refine ⟨modes, modes, modes, modes, modes, hlevel, hdriven, hlocked, fun hp => ⟨?_, ?_⟩, fun p hp => ⟨?_, ?_⟩, hx ▸ rfl,
    fun hn => ?_, fun p hn => ?_, hx ▸ bytes16 l.guardCount⟩
  · rw [howner, hp]; rfl
  · rw [hrelease, releaseShown, hp]
  · rw [howner, hp]; exact toNat_slotByte p.owner
  · rw [hrelease, releaseShown, hp]
  · rw [hnext, nextLength, hn]; rfl
  · rw [hnext, nextLength, hn]

/-- The channel configuration window, by its fields (R116, R162). -/
theorem capCfgImage_fields (c : Channel) (level : Bool) (x : Vector Byte 6) (hx : x = capCfgImage c level) :
    (c.edge = .off → x[0].extractLsb' 0 2 = 0) ∧ (c.edge = .rise → x[0].extractLsb' 0 2 = 1)
      ∧ (c.edge = .fall → x[0].extractLsb' 0 2 = 2) ∧ (c.edge = .both → x[0].extractLsb' 0 2 = 3)
      ∧ (∀ l, c.filter = .stable l → x[0].getLsbD 4 = false ∧ x[0].getLsbD 5 = l)
      ∧ (∀ l t u, c.filter = .qualifying l t u → x[0].getLsbD 4 = true ∧ x[0].getLsbD 5 = l)
      ∧ x[0].getLsbD 6 = level ∧ x[1] = c.filterLength
      ∧ (c.trigger = none → x[2] = 0xFF) ∧ (∀ i, c.trigger = some i → x[2].toNat = i.val)
      ∧ x[5] ++ x[4] ++ x[3] = c.offset := by
  obtain ⟨hedge, hqualifying, hstable, hlevel⟩ := capCfgByte0_fields c level x[0] (by rw [hx]; rfl)
  have htrigger : x[2] = slotByte c.trigger := hx ▸ rfl
  have edges {e : EdgeSelect} (he : c.edge = e) : x[0].extractLsb' 0 2 = edgeSelectCode e := he ▸ hedge
  have filters {f : Filter} (hf : c.filter = f) : x[0].getLsbD 4 = f.isQualifying ∧ x[0].getLsbD 5 = f.stableLevel :=
    ⟨hf ▸ hqualifying, hf ▸ hstable⟩
  refine ⟨edges, edges, edges, edges, fun l => filters, fun l t u => filters, hlevel, hx ▸ rfl, fun ht => ?_, fun i ht => ?_,
    hx ▸ bytes24 c.offset⟩
  · rw [htrigger, ht]; rfl
  · rw [htrigger, ht]; exact toNat_slotByte i

/-- The group status window, by its fields (R89, R162). -/
theorem groupStatImage_fields (s : State) (g : GroupId) (x : Vector Byte 5) (hx : x = groupStatImage s g) :
    (∀ g : GroupId, x[0].getLsbD g = (s.group g).suspended) ∧ x[4] ++ x[3] ++ x[2] ++ x[1] = (s.group g).stamp := by
  obtain ⟨h0, h1, h2, h3, h4, h5, h6, h7⟩ := eightFlags (x := x[0]) (by rw [hx]; rfl)
  refine ⟨fun g => ?_, hx ▸ bytes32 (s.group g).stamp⟩
  match g with
  | 0 => exact h0
  | 1 => exact h1
  | 2 => exact h2
  | 3 => exact h3
  | 4 => exact h4
  | 5 => exact h5
  | 6 => exact h6
  | 7 => exact h7

end Images

/-! ### The bytes that a read shows (R155, R156, R159, R160) -/

section Shown
variable {s : State}

/-- A byte of ARG. -/
theorem byteAt_arg (k : Fin 8) : s.byteAt (0x06 + k.val) = s.cmd.args[k] := by
  have hk := k.isLt
  simp (disch := omega) only [State.byteAt, if_neg, if_pos, Nat.add_sub_cancel_left, toList_getD]

/-- A byte of the staging record. -/
theorem byteAt_staging {k : Nat} (hk : k < 18) : s.byteAt (0x0F + k) = stagingByte s.cmd.staging k := by
  simp (disch := omega) only [State.byteAt, if_neg, if_pos, Nat.add_sub_cancel_left]

/-- A byte of the readback record. -/
theorem byteAt_readback {k : Nat} (hk : k < 32) : s.byteAt (0x21 + k) = readbackByte s.cmd.readback k := by
  simp (disch := omega) only [State.byteAt, if_neg, if_pos, Nat.add_sub_cancel_left]

/-- A byte of the line status window, from its latch. -/
theorem byteAt_lineStat (k : Fin 10) : s.byteAt (0x44 + k.val) = s.window.lineStatLatch[k] := by
  have hk := k.isLt
  simp (disch := omega) only [State.byteAt, if_neg, if_pos, Nat.add_sub_cancel_left, toList_getD]

/-- A byte of the channel configuration window, from its latch. -/
theorem byteAt_capCfg (k : Fin 6) : s.byteAt (0x4E + k.val) = s.window.capCfgLatch[k] := by
  have hk := k.isLt
  simp (disch := omega) only [State.byteAt, if_neg, if_pos, Nat.add_sub_cancel_left, toList_getD]

/-- A byte of the group status window, from its latch. -/
theorem byteAt_groupStat (k : Fin 5) : s.byteAt (0x54 + k.val) = s.window.groupStatLatch[k] := by
  have hk := k.isLt
  simp (disch := omega) only [State.byteAt, if_neg, if_pos, Nat.add_sub_cancel_left, toList_getD]

/-- A byte of TIME, from its latch. -/
theorem byteAt_time (k : Fin 6) : s.byteAt (0x59 + k.val) = s.window.timeLatch[k] := by
  have hk := k.isLt
  simp (disch := omega) only [State.byteAt, if_neg, if_pos, Nat.add_sub_cancel_left, toList_getD]

/-- A byte of SYNCVAL. -/
theorem byteAt_syncVal {k : Nat} (hk : k < 4) : s.byteAt (0x5F + k) = byteOf s.timebase.syncVal k := by
  simp (disch := omega) only [State.byteAt, if_neg, if_pos, Nat.add_sub_cancel_left]

/-- A byte of NEXTDUE, from its latch. -/
theorem byteAt_nextDue (k : Fin 4) : s.byteAt (0x68 + k.val) = s.window.nextDueLatch[k] := by
  have hk := k.isLt
  simp (disch := omega) only [State.byteAt, if_neg, if_pos, Nat.add_sub_cancel_left, toList_getD]

/-- A byte of the guard limit. -/
theorem byteAt_guardLimit {k : Nat} (hk : k < 2) :
    s.byteAt (0x42 + k) = byteOf (s.line s.selectedLine).config.guardLimit k := by
  interval_cases k <;> rfl

/-- PENDCOUNT: from its latch once NEXTDUE was read in the frame (R35). -/
theorem byteAt_pendCount : s.byteAt 0x6C = if s.port.nextDueRead then s.window.pendCountLatch else pendCount s := rfl

/-- The fields of a record in the staging layout, from the bytes that show it (R161). -/
theorem staged_reads {base a : Nat} {r : Staging} {f : Nat → Byte} {b : Byte} (hf : StagedFields r f)
    (hb : ∀ k, k < 18 → a = base + k → b = f k) :
    (a = base → b.extractLsb' 0 3 = r.action ∧ b.extractLsb' 3 1 = r.late ∧ b.extractLsb' 4 2 = r.notify)
      ∧ (a = base + 1 → b.extractLsb' 0 5 = r.line ∧ b.extractLsb' 5 3 = r.group)
      ∧ (∀ k, k < 4 → a = base + 2 + k → b = byteOf r.time k)
      ∧ (∀ k, k < 3 → a = base + 6 + k → b = byteOf r.period k)
      ∧ (∀ k, k < 2 → a = base + 9 + k → b = byteOf r.repeats k)
      ∧ (∀ k, k < 2 → a = base + 11 + k → b = byteOf r.width k)
      ∧ (a = base + 13 → b = r.tolerance)
      ∧ (a = base + 14 → b.extractLsb' 0 7 = r.chain ∧ b.extractLsb' 7 1 = r.autoRelease)
      ∧ (∀ k, k < 3 → a = base + 15 + k → b = if r.chain = 0x7F then 0 else byteOf r.chainOffset k) := by
  obtain ⟨hzero, hrest⟩ := hf
  have shown {j : Nat} (hlo : 0 < j) (hhi : j < 18) (ha : a = base + j) : b = stagingByte r j :=
    (hb j hhi ha).trans (hrest j hlo hhi)
  refine ⟨fun ha => ?_, fun ha => ?_, fun k hk ha => ?_, fun k hk ha => ?_, fun k hk ha => ?_, fun k hk ha => ?_, fun ha => ?_,
    fun ha => ?_, fun k hk ha => ?_⟩
  case refine_1 => rw [hb 0 (by decide) ha]; exact hzero
  case refine_2 =>
    have hpacked : b = r.group ++ r.line := shown (by decide) (by decide) ha
    rw [hpacked]
    exact ⟨BitVec.extractLsb'_append_eq_right, BitVec.extractLsb'_append_eq_left⟩
  case refine_7 => exact shown (by decide) (by decide) ha
  case refine_8 =>
    have hpacked : b = r.autoRelease ++ r.chain := shown (by decide) (by decide) ha
    rw [hpacked]
    exact ⟨BitVec.extractLsb'_append_eq_right, BitVec.extractLsb'_append_eq_left⟩
  all_goals
    rw [shown (by omega) (by omega) (ha.trans (Nat.add_assoc ..))]
    simp (disch := omega) only [stagingByte, if_neg, if_pos, Nat.add_sub_cancel_left]

/-- The run fields of the readback record, from the bytes that show it (R161). -/
theorem readback_reads {a : Nat} {r : Slot} {b : Byte} (hb : ∀ k, k < 32 → a = 0x21 + k → b = readbackByte r k) :
    (∀ k, k < 4 → a = 0x33 + k → b = byteOf r.due k) ∧ (∀ k, k < 4 → a = 0x37 + k → b = byteOf r.remaining k)
      ∧ (∀ k, k < 2 → a = 0x3B + k → b = byteOf r.repeatsLeft k)
      ∧ (∀ k, k < 2 → a = 0x3D + k → b = byteOf r.occurrences k)
      ∧ ∀ k, k < 2 → a = 0x3F + k → b = byteOf r.skipTotal k := by
  have at_offset (n k : Nat) (hk : n + k < 32) (ha : a = 0x21 + n + k) : b = readbackByte r (n + k) :=
    hb (n + k) hk (ha.trans (Nat.add_assoc ..))
  refine ⟨fun k hk ha => (at_offset 18 k (by omega) ha).trans ?_, fun k hk ha => (at_offset 22 k (by omega) ha).trans ?_,
    fun k hk ha => (at_offset 26 k (by omega) ha).trans ?_, fun k hk ha => (at_offset 28 k (by omega) ha).trans ?_,
    fun k hk ha => (at_offset 30 k (by omega) ha).trans ?_⟩
  case refine_5 => simp (disch := omega) only [readbackByte, if_neg, Nat.add_sub_cancel_left]
  all_goals simp (disch := omega) only [readbackByte, if_neg, if_pos, Nat.add_sub_cancel_left]

/-- The selectors of line and channel in their byte (R159). -/
theorem selectorByte_fields (s : State) : (s.byteAt 0x04).extractLsb' 0 4 = s.window.lineSel
    ∧ (s.byteAt 0x04).extractLsb' 4 2 = s.window.capSel ∧ (s.byteAt 0x04).extractLsb' 6 2 = 0 := by
  have hpacked : s.byteAt 0x04 = 0#2 ++ s.window.capSel ++ s.window.lineSel := rfl
  rw [hpacked]
  refine ⟨BitVec.extractLsb'_append_eq_right, ?_, ?_⟩
  · rw [BitVec.extractLsb'_append_eq_of_le (by decide)]
    exact BitVec.extractLsb'_append_eq_right
  · rw [BitVec.extractLsb'_append_eq_of_le (by decide)]
    exact BitVec.extractLsb'_append_eq_left

/-- A read in READ of a byte other than STATUS (R156). -/
theorem latchRead_eq {a : Nat} (hf : s.port.frame = .read) (hp : s.port.pointer.toNat = a) (ha : a ≠ 0x02) :
    exec .latchRead s = .next
      ((s.latchAt a).withPort { (s.latchAt a).port with sdo := some ((s.latchAt a).byteAt a) }).advance :=
  congrArg Host.Outcome.next ((if_pos hf).trans (readByte_eq hp ha))

/-- The read of STATUS shows its flags and lowers two of them (R158). -/
theorem statusRead_shows (h : ReadsAt s 0x02) : exec .statusRead s = .next { s with
    cmd := { s.cmd with collide := false }, lineUnit := { s.lineUnit with lockViol := false }
    port := { portPast s with sdo := some (statusByte s) } } := by
  have hp : s.port.pointer.toNat = 0x02 := congrArg BitVec.toNat h.2
  refine congrArg Host.Outcome.next ((readAt_eq h).trans ?_)
  simp only [State.readByte, hp]
  rfl

/-- NEXTDUE is the due time of the head, 0 without one (R35). -/
theorem nextDue_eq {due : Tick} (hn : s.plist = [] → due = 0)
    (hc : ∀ e rest, s.plist = e :: rest → due = (s.slot e.slot).due) :
    due = s.nextDue := by
  unfold State.nextDue
  split
  · next h => exact hn h
  · next e rest h => exact hc e rest h

/-- Settles O47: STATUS, the five lowest bytes with their windows, and the bytes of every other address. -/
theorem statusAndLatchReads : Obligations.StatusAndLatchReads := by
  refine ⟨fun s h => ⟨statusByte s, statusRead_shows h, ?_⟩, fun w x k => byteOf_eq x k, fun s a hf hp =>
    ⟨fun ha => ?_, fun due ha hn hc => ?_, fun ha => ?_, fun ha => ?_, fun ha => ?_, fun ha => ?_⟩⟩
  case refine_1 =>
    rw [← isPending_eq]
    exact eightFlags rfl
  case refine_2 => subst ha; exact latchRead_eq hf hp (by decide)
  case refine_3 => subst ha; rw [nextDue_eq hn hc]; exact latchRead_eq hf hp (by decide)
  case refine_4 =>
    subst ha
    refine ⟨_, latchRead_eq hf hp (by decide), ?_⟩
    rintro l rfl
    exact lineStatImage_fields _ _ _ rfl
  case refine_5 =>
    subst ha
    refine ⟨_, latchRead_eq hf hp (by decide), ?_⟩
    rintro k c hk rfl
    obtain rfl : k = s.selectedChannel := Fin.ext hk
    exact capCfgImage_fields _ _ _ rfl
  case refine_6 =>
    subst ha
    refine ⟨_, latchRead_eq hf hp (by decide), (groupStatImage_fields s s.selectedGroup _ rfl).1, fun g hg => ?_⟩
    obtain rfl : g = s.selectedGroup := Fin.ext hg
    exact (groupStatImage_fields s s.selectedGroup _ rfl).2
  case refine_7 =>
    refine ⟨_, latchRead_plain hf hp ha, rfl, ?_⟩
    have readback (k : Nat) (hk : k < 32) (ha : a = 0x21 + k) : s.byteAt a = readbackByte s.cmd.readback k :=
      ha ▸ byteAt_readback hk
    obtain ⟨hdue, hremaining, hrepeats, hoccurrences, hskips⟩ := readback_reads readback
    refine ⟨fun ha => ha ▸ rfl, fun ha => ha ▸ rfl, fun ha => ha ▸ rfl, fun ha => ?_, fun ha => ha ▸ selectorByte_fields s,
      fun ha => ?_, fun k ha => ha ▸ byteAt_arg k, fun ha => ha ▸ rfl, ?_, fun ha => ?_, hdue, hremaining, hrepeats,
      hoccurrences, hskips, ?_, fun k ha => ha ▸ byteAt_lineStat k, fun k ha => ha ▸ byteAt_capCfg k,
      fun k ha => ha ▸ byteAt_groupStat k, fun k ha => ha ▸ byteAt_time k, fun k hk ha => ha ▸ byteAt_syncVal hk,
      fun ha => ⟨fun hm => ?_, fun m hm => ?_⟩, fun ha => ha ▸ ctrlByte_fields s, fun ha => ha ▸ postMaskByte_low s.queue.postMask,
      fun ha => ha ▸ postMaskByte_top s.queue.postMask, fun ha => ha ▸ rfl, fun k ha => ha ▸ byteAt_nextDue k,
      fun ha => ⟨fun hr => ?_, fun hr => ?_⟩⟩
    · subst ha
      have shown {r : ResultCode} (hr : s.cmd.result = r) : s.byteAt 0x03 = resultByte r := hr ▸ rfl
      exact ⟨shown, shown, shown, shown, shown, shown, shown⟩
    · subst ha
      exact ⟨BitVec.extractLsb'_append_eq_right, BitVec.extractLsb'_append_eq_left⟩
    · rintro base r (⟨rfl, rfl⟩ | ⟨rfl, rfl⟩)
      · exact staged_reads (stagedFields_staging _) fun k hk ha => ha ▸ byteAt_staging hk
      · exact staged_reads (stagedFields_readback _).1 fun k hk => readback k (by omega)
    · have hstate := (stagedFields_readback s.cmd.readback).2
      rw [← readback 0 (by decide) ha] at hstate
      have shown {c : SlotState} (hc : s.cmd.readback.state = c) : (s.byteAt a).extractLsb' 6 2 = slotStateCode c := hc ▸ hstate
      exact ⟨shown, shown, shown, shown⟩
    · rintro c rfl
      refine ⟨fun ha => ?_, fun k hk ha => ha ▸ byteAt_guardLimit hk⟩
      obtain ⟨henabled, hpolarity, hdrive, hsafe⟩ := lineConfigByte_fields (s.line s.selectedLine).config _ rfl
      have shown {v : SafeLevel} (hv : (s.line s.selectedLine).config.safe = v) :
          (s.byteAt a).extractLsb' 3 2 = safeLevelCode v := by rw [ha, ← hv]; exact hsafe
      refine ⟨ha ▸ henabled, ha ▸ hpolarity, ha ▸ hdrive, shown, shown, shown⟩
    · subst ha
      exact congrArg markerByte hm
    · subst ha
      exact (congrArg (fun x => (markerByte x).toNat) hm).trans (toNat_ofNat_fin m (by decide))
    · rw [ha, byteAt_pendCount, if_pos hr]
    · rw [ha, byteAt_pendCount, if_neg (Bool.eq_false_iff.1 hr)]
      rfl

end Shown

end Sys2Proof.Machine
end
